-- ==== Sys2Proof/Word.lean ====
section
/-! DEFINITION. The plain word and index types of the model: link bytes, yard clock values, step and filter numbers, combinations. -/

namespace Sys2Proof

/-- One byte on the link. -/
abbrev Byte := BitVec 8

/-- A value of the yard clock: a 32-bit unsigned count of milliseconds (R12). -/
abbrev Clock := BitVec 32

/-- Steps 1 to 6, numbered from 0: step `k` of the manual is `k - 1` here. -/
abbrev StepNo := Fin 6

/-- Filters F1 to F8, numbered from 0. -/
abbrev FilterNo := Fin 8

/-- A set of steps written as a number from 0 to 63; step k contributes 2^(k-1) (00_scope.md, Combinations). -/
abbrev Comb := BitVec 6

end Sys2Proof
end

