-- ==== Sys2Proof/Syntax.lean ====
section
/-! DEFINITION. The 64 commands of spec/opcode_table.json as one inductive, and the operands they carry. -/

namespace Sys2Proof

/-- The two contact inputs of a step's breaker (section 2.2). -/
inductive Contact
  /-- POSAk, made when the breaker is closed. -/
  | posA
  /-- POSBk, made when the breaker is open. -/
  | posB
deriving DecidableEq, Repr, Inhabited

/-- The two coil outputs of a step (R53, R54). -/
inductive Coil
  | closeCoil
  | openCoil
deriving DecidableEq, Repr, Inhabited

/-- What the Measurement Unit's inputs show of one bus phase over one cycle (R2, R3, R4).
Fractional quantities are in thousandths of the manual's unit. -/
structure PhaseInput where
  /-- Some sample of the phase voltage reached the converter's full scale. -/
  fullScale : Bool
  /-- RMS of the fundamental, in thousandths of a vu. -/
  fundamental : Nat
  /-- Angle of the fundamental against the cycle start, in thousandths of a degree. -/
  angle : Nat
  /-- Active part of the phase's line current, in thousandths of 0.01 % of rated current. -/
  active : Int
  /-- Reactive part, positive when the current lags, in the same unit. -/
  reactive : Int
deriving DecidableEq, Repr, Inhabited

/-- What one neutral input shows over one cycle: the components of its fundamental against the cycle start, in
0.01 A. The Measurement Unit turns them to the angle reference of the frame (R4; log entry 9). -/
structure NeutralInput where
  fullScale : Bool
  /-- In phase with the cycle start. -/
  x : Int
  /-- A quarter turn ahead of it. -/
  y : Int
deriving DecidableEq, Repr, Inhabited

/-- The measured quantities of one cycle, before the Measurement Unit forms the Cycle Frame. -/
structure CycleInput where
  va : PhaseInput
  vb : PhaseInput
  vc : PhaseInput
  neutrals : Vector NeutralInput 6
deriving DecidableEq, Repr, Inhabited

/-- What one bus voltage phase shows over one spectrum window (R8). -/
structure VoltageSpectrumInput where
  /-- Levels of orders 2 to 25, in thousandths of a hu of the phase's own fundamental. -/
  levels : Vector Nat 24
  /-- Whether the phase is valid on the window's last cycle; read only when the Spectrum Frame is taken
  before that cycle's Cycle Frame (R9). -/
  validLast : Bool
deriving DecidableEq, Repr, Inhabited

/-- What one yard-current phase shows over one spectrum window (R8). -/
structure CurrentSpectrumInput where
  /-- The fundamental, in thousandths of 0.01 % of rated yard current. -/
  fundamental : Nat
  /-- Levels of orders 2 to 25, in thousandths of a hu. -/
  levels : Vector Nat 24
deriving DecidableEq, Repr, Inhabited

/-- The measured quantities of one spectrum window. -/
structure SpectrumInput where
  va : VoltageSpectrumInput
  vb : VoltageSpectrumInput
  vc : VoltageSpectrumInput
  qa : CurrentSpectrumInput
  qb : CurrentSpectrumInput
  qc : CurrentSpectrumInput
deriving DecidableEq, Repr, Inhabited

/-- The commands. A request command carries the frame's tag and payload bytes; an `expiry` command is
the event of R13 at the owner of that deadline. -/
inductive Instr
  /-- Power-on or RESET; the levels of RATE1 (bit 1) and RATE0 (bit 0) at that moment. -/
  | coldReset (rate : BitVec 2)
  | cycleFrame (m : CycleInput)
  /-- `learnerFirst`: the Resonance Learner takes the arrival before the Harmonic Supervisor. -/
  | spectrumFrame (m : SpectrumInput) (learnerFirst : Bool)
  | rawContactChange (k : StepNo) (c : Contact) (level : Bool)
  | contactFilterExpiry (k : StepNo) (c : Contact)
  | establishLimit
  | blockInputChange (level : Bool)
  | blockFilterExpiry
  | positionWatchExpiry (k : StepNo)
  | dischargeExpiry (k : StepNo)
  | closeListLeaveExpiry (k : StepNo)
  | minClosedExpiry (k : StepNo)
  | inrushHoldExpiry (k : StepNo)
  | pulseDeadlineExpiry (k : StepNo) (c : Coil)
  | operationTimeout
  | channelRestExpiry
  | retryDeadlineExpiry (k : StepNo)
  | raiseExpiry
  | lowerExpiry
  | settleExpiry
  | supervisionExpiry
  | filterPickupExpiry (f : FilterNo)
  | filterDropoutExpiry (f : FilterNo)
  | freshnessExpiry
  | resSettleExpiry
  | entryExpiry (comb : Comb)
  | unbAlarmPickupExpiry (k : StepNo)
  | unbTripPickupExpiry (k : StepNo)
  | ov1PickupExpiry
  | ov1RepeatExpiry
  | ov2PickupExpiry
  | deadLinePickupExpiry
  | restoreExpiry
  | tripTimeLeaveExpiry
  | waitTimeout
  | interByteTimeout
  | discardedFrame
  | replySent
  | unknownRequest (kind tag : Byte) (payload : List Byte)
  | status (tag : Byte) (payload : List Byte)
  | measure (tag : Byte) (payload : List Byte)
  | stepRead (tag : Byte) (payload : List Byte)
  | stepConfig (tag : Byte) (payload : List Byte)
  | service (tag : Byte) (payload : List Byte)
  | operate (tag : Byte) (payload : List Byte)
  | mode (tag : Byte) (payload : List Byte)
  | controlConfig (tag : Byte) (payload : List Byte)
  | yardConfig (tag : Byte) (payload : List Byte)
  | filterRead (tag : Byte) (payload : List Byte)
  | filterConfig (tag : Byte) (payload : List Byte)
  | filterEnable (tag : Byte) (payload : List Byte)
  | vetoRead (tag : Byte) (payload : List Byte)
  | vetoWrite (tag : Byte) (payload : List Byte)
  | zero (tag : Byte) (payload : List Byte)
  | zeroCancel (tag : Byte) (payload : List Byte)
  /-- The payload after the target byte STEP. -/
  | acknowledgeStep (tag : Byte) (rest : List Byte)
  /-- The payload after the target byte FILTER. -/
  | acknowledgeFilter (tag : Byte) (rest : List Byte)
  /-- The payload after the target byte YARD. -/
  | acknowledgeYard (tag : Byte) (rest : List Byte)
  | events (tag : Byte) (payload : List Byte)
  | wait (tag : Byte) (payload : List Byte)
  | save (tag : Byte) (payload : List Byte)
  /-- The store's write ends; `matched` says whether the readback matches (R179). -/
  | saveEnd (matched : Bool)
  | restart (tag : Byte) (payload : List Byte)
  | byteReceived (b : Byte)
deriving DecidableEq, Repr

end Sys2Proof
end

