-- ==== Sys2Proof/Decode.lean ====
section
/-! DEFINITION. The word decoder the host asks about. The opcode table of this block gives no row any bits, so no word spells a command. -/

namespace Sys2Proof

/-- The command that a word spells by the table's bits. Every row of spec/opcode_table.json has an empty
"fields" list and no match bits, so the answer is `none` for every word. -/
def decodeTableWord (_nbits _w : Nat) : Option Instr := none

end Sys2Proof
end

