-- ==== Sys2Proof/Config.lean ====
section
/-! DEFINITION. The free values: what the spec leaves open and the device goes on with. Each is an opaque constant, so nothing can be proved of a value of it. -/

namespace Sys2Proof.Config

/-- The jitter drawn at a place of the pseudo-random sequence (R86), before it is brought into 0 to JITTER-MAX.
Free value; log entry 5. -/
opaque jitter : Nat → Nat

/-- Which of several due events is taken first when their order is left open (R13). Free value; log entry 6. -/
opaque dueChoice : Nat → Nat

/-- Whether, at a take-over, the start of the PROTECTION OPEN reaches the Resonance Learner before the abort of
the CLOSE (R46, R124, R125: both reports are sent together). Free value; log entry 6. -/
opaque takeOverStartFirst : Nat → Bool

/-- What the inputs show over a cycle the device completes by itself. Free value; log entry 7. -/
opaque cycleInput : Nat → CycleInput

/-- What the inputs show over a window the device completes by itself. Free value; log entry 7. -/
opaque spectrumInput : Nat → SpectrumInput

/-- Which consumer takes that Spectrum Frame first. Free value; log entry 7. -/
opaque learnerFirst : Nat → Bool

/-- Whether the store's readback matches when its write ends at the 400 ms limit (R179). Free value; log entry 7. -/
opaque readbackMatches : Nat → Bool

/-- Which whole 0.01 A a phasor's turned components are rounded to: R4 states no rounding. Read only for a component that
is not whole itself, and held to the whole numbers next to it. Free value; log entry 9. -/
opaque turned : Nat → Int → Int → Int × Int

end Sys2Proof.Config
end

