-- ==== Sys2Proof/Machine/Settings.lean ====
section
/-! DEFINITION. The settings of the device, one structure per settings table, with the defaults the tables give; the whole is the image the Settings Store keeps (R179). -/

namespace Sys2Proof.Machine

/-- FREQUENCY (Table 1-2). -/
inductive Frequency | hz50 | hz60
deriving DecidableEq, Repr, Inhabited

/-- SELECTION (Table 1-3). -/
inductive Selection | average | highest | lowest
deriving DecidableEq, Repr, Inhabited

/-- The mode, and START-MODE (Tables 5-1, 10-2). -/
inductive Mode | auto | remote | hold
deriving DecidableEq, Repr, Inhabited

/-- FALLBACK (Table 5-1). -/
inductive Fallback | auto | hold
deriving DecidableEq, Repr, Inhabited

/-- REMOVAL-ORDER (Table 5-1). -/
inductive RemovalOrder | fifo | lifo
deriving DecidableEq, Repr, Inhabited

/-- CLOSE-FAIL-MODE (Table 3-4). -/
inductive CloseFailMode | lock | retry | report
deriving DecidableEq, Repr, Inhabited

/-- BLOCK-OVERRIDE (Table 3-4). -/
inductive BlockOverride | follow | force | ignore
deriving DecidableEq, Repr, Inhabited

/-- TRIP-MODE (Table 8-1). -/
inductive TripMode | latch | report | off
deriving DecidableEq, Repr, Inhabited

/-- YARD-TRIP-MODE (Table 9-1). -/
inductive YardTripMode | auto | latch
deriving DecidableEq, Repr, Inhabited

/-- Event classes, and ATTN-CLASS (Table 10-2). -/
inductive EvClass | info | alarm | trip
deriving DecidableEq, Repr, Inhabited

/-- SOURCE of a filter (Table 6-1). -/
inductive Source | voltage | yardCurrent
deriving DecidableEq, Repr, Inhabited

/-- MEASURE of a filter (Table 6-1). -/
inductive Measure | rss | sum
deriving DecidableEq, Repr, Inhabited

/-- QUALIFIER of a filter (Table 6-1). -/
inductive Qualifier | always | anyEnergized | contains | voltageHigh | fresh
deriving DecidableEq, Repr, Inhabited

/-- ACTION of a filter (Table 6-1). -/
inductive Action | alarm | blockClose | removeLast | tripAll
deriving DecidableEq, Repr, Inhabited

/-- RESPONSE of a filter (Table 6-1). -/
inductive Response | selfReset | latched
deriving DecidableEq, Repr, Inhabited

/-- What STEP-CONFIG writes for one step: Table 2-5, the step settings of Tables 3-4, 4-1 and 8-1, and the
step's ΔV estimate (R37). -/
structure StepSettings where
  /-- CONTACT-FILTER, ms. -/
  contactFilter : Nat
  /-- OPERATE-TIMEOUT, ms. -/
  operateTimeout : Nat
  /-- CLOSE-PULSE, ms. -/
  closePulse : Nat
  /-- OPEN-PULSE, ms. -/
  openPulse : Nat
  retryCount : Nat
  /-- RETRY-INTERVAL, s. -/
  retryInterval : Nat
  /-- DISCHARGE, s. -/
  discharge : Nat
  closeLimit : Nat
  /-- REST-WINDOW, h. -/
  restWindow : Nat
  /-- MIN-CLOSED, s. -/
  minClosed : Nat
  inherentX : Int
  inherentY : Int
  /-- REF-V, vu. -/
  refV : Nat
  /-- INRUSH-HOLD, ms. -/
  inrushHold : Nat
  unbAlarm : Nat
  unbTrip : Nat
  /-- ALARM-DELAY, s. -/
  alarmDelay : Nat
  /-- TRIP-DELAY, ms. -/
  tripDelay : Nat
  /-- The step's ΔV estimate, vu; owned by the Voltage Controller. -/
  dvEstimate : Int
  closeFailMode : CloseFailMode
  tripMode : TripMode
deriving DecidableEq, Repr, Inhabited

/-- The defaults of Tables 2-5, 3-4, 4-1, 5-1 and 8-1 for one step. -/
def StepSettings.default : StepSettings where
  contactFilter := 10
  operateTimeout := 200
  closePulse := 100
  openPulse := 100
  retryCount := 1
  retryInterval := 30
  discharge := 300
  closeLimit := 4
  restWindow := 24
  minClosed := 600
  inherentX := 0
  inherentY := 0
  refV := 10000
  inrushHold := 200
  unbAlarm := 200
  unbTrip := 500
  alarmDelay := 10
  tripDelay := 500
  dvEstimate := 200
  closeFailMode := .lock
  tripMode := .latch

/-- What CONTROL-CONFIG writes: Table 1-3 without SELECTION, and Table 5-1 without the estimates (R99). -/
structure ControlSettings where
  ldcR : Nat
  ldcX : Nat
  /-- SETPOINT, S. -/
  setpoint : Nat
  /-- BANDWIDTH, W. -/
  bandwidth : Nat
  urgentMargin : Nat
  /-- SUPERVISION, s; 0 disables it. -/
  supervision : Nat
  /-- RAISE-DELAY, s. -/
  raiseDelay : Nat
  /-- LOWER-DELAY, s. -/
  lowerDelay : Nat
  /-- URGENT-DELAY, s. -/
  urgentDelay : Nat
  /-- JITTER-MAX, s. -/
  jitterMax : Nat
  predictMargin : Nat
  /-- SETTLE, s. -/
  settle : Nat
  dvMin : Nat
  dvMax : Nat
  startMode : Mode
  fallback : Fallback
  removalOrder : RemovalOrder
deriving DecidableEq, Repr, Inhabited

/-- The defaults of Tables 1-3 and 5-1. -/
def ControlSettings.default : ControlSettings where
  ldcR := 0
  ldcX := 0
  setpoint := 10000
  bandwidth := 400
  urgentMargin := 500
  supervision := 300
  raiseDelay := 60
  lowerDelay := 60
  urgentDelay := 5
  jitterMax := 10
  predictMargin := 50
  settle := 10
  dvMin := 50
  dvMax := 800
  startMode := .hold
  fallback := .hold
  removalOrder := .fifo

/-- What YARD-CONFIG writes (R173): REST-INTERVAL and BLOCK-OVERRIDE, Tables 7-1 and 9-1, FREQUENCY,
SELECTION and ATTN-CLASS. -/
structure YardSettings where
  /-- REST-INTERVAL, s. -/
  restInterval : Nat
  resFloor : Nat
  /-- RES-RATIO, %. -/
  resRatio : Nat
  vetoLevel : Nat
  /-- SUSPECT-HOLD, min. -/
  suspectHold : Nat
  /-- VETO-HOLD, min. -/
  vetoHold : Nat
  ov1Level : Nat
  /-- OV1-DELAY, s. -/
  ov1Delay : Nat
  ov2Level : Nat
  /-- OV2-DELAY, ms. -/
  ov2Delay : Nat
  deadLevel : Nat
  /-- DEAD-DELAY, ms. -/
  deadDelay : Nat
  restoreLevel : Nat
  /-- RESTORE-DELAY, s. -/
  restoreDelay : Nat
  retryLimit : Nat
  /-- RETRY-WINDOW, h. -/
  retryWindow : Nat
  frequency : Frequency
  selection : Selection
  blockOverride : BlockOverride
  evict : Bool
  yardTripMode : YardTripMode
  attnClass : EvClass
deriving DecidableEq, Repr, Inhabited

/-- The defaults of Tables 1-2, 1-3, 3-4, 7-1 and 9-1, and ATTN-CLASS ALARM (R173). -/
def YardSettings.default : YardSettings where
  restInterval := 10
  resFloor := 150
  resRatio := 200
  vetoLevel := 600
  suspectHold := 120
  vetoHold := 480
  ov1Level := 11000
  ov1Delay := 5
  ov2Level := 12000
  ov2Delay := 100
  deadLevel := 3000
  deadDelay := 500
  restoreLevel := 9000
  restoreDelay := 60
  retryLimit := 3
  retryWindow := 4
  frequency := .hz50
  selection := .average
  blockOverride := .follow
  evict := false
  yardTripMode := .auto
  attnClass := .alarm

/-- What FILTER-CONFIG writes for one filter (Table 6-1). Order h is bit h - 2 of `orders` (R168). -/
structure FilterSettings where
  source : Source
  orders : BitVec 24
  measure : Measure
  threshold : Nat
  invert : Bool
  qualifier : Qualifier
  qualifierSteps : Comb
  /-- PICKUP, s. -/
  pickup : Nat
  /-- DROPOUT, s. -/
  dropout : Nat
  action : Action
  response : Response
deriving DecidableEq, Repr, Inhabited

/-- The defaults of Table 6-1. -/
def FilterSettings.default : FilterSettings where
  source := .voltage
  orders := BitVec.allOnes 24
  measure := .rss
  threshold := 800
  invert := false
  qualifier := .always
  qualifierSteps := 0
  pickup := 10
  dropout := 10
  action := .alarm
  response := .selfReset

/-- Every value the Settings Store keeps (R179); the working values have the same shape. -/
structure Settings where
  control : ControlSettings
  yard : YardSettings
  steps : Vector StepSettings 6
  filters : Vector FilterSettings 8
  /-- The in-service set (R35). -/
  inService : Comb
  /-- The filter-enable set (R117). -/
  enabled : BitVec 8
deriving DecidableEq, Repr, Inhabited

/-- What every setting is when no store slot is valid (R180). -/
def Settings.default : Settings where
  control := .default
  yard := .default
  steps := Vector.replicate 6 .default
  filters := Vector.replicate 8 .default
  inService := 0
  enabled := 0

end Sys2Proof.Machine
end

