-- ==== Sys2Proof/Machine/Records.lean ====
section
/-! DEFINITION. The records each block owns: the types of the state's parts. -/

namespace Sys2Proof.Machine

/-! ### Measurement Unit (chapter 1) -/

/-- Quality of a phase (R2). -/
inductive Quality | good | clipped | absent
deriving DecidableEq, Repr, Inhabited

/-- A bus phase voltage in a Cycle Frame (R2). -/
structure Phase where
  quality : Quality
  value : Nat
deriving DecidableEq, Repr, Inhabited

/-- A neutral phasor in a Cycle Frame with its quality marker (R4). -/
structure Neutral where
  x : Int
  y : Int
  clipped : Bool
deriving DecidableEq, Repr, Inhabited

/-- One Cycle Frame (Figure 1-1). -/
structure CycleFrame where
  time : Clock
  va : Phase
  vb : Phase
  vc : Phase
  /-- The count of valid phases. -/
  valid : Nat
  ip : Int
  iq : Int
  neutrals : Vector Neutral 6
  vtLoss : Bool
deriving DecidableEq, Repr, Inhabited

/-- One Spectrum Frame (R8); entry i of `vh` and `qh` is order i + 2. -/
structure SpectrumFrame where
  time : Clock
  vh : Vector Nat 24
  qh : Vector Nat 24
  qa1 : Nat
  qb1 : Nat
  qc1 : Nat
deriving DecidableEq, Repr, Inhabited

/-- One flag per bus phase. -/
structure PhaseFlags where
  a : Bool
  b : Bool
  c : Bool
deriving DecidableEq, Repr, Inhabited

/-- What the Measurement Unit owns (R1, R4, R7, R10, R11). -/
structure MeasUnit where
  cycle : Option CycleFrame
  spectrum : Option SpectrumFrame
  /-- The angle reference against the cycle start, in thousandths of a degree (R4). -/
  angleRef : Nat
  /-- The frequency the timebase runs at. -/
  freq : Frequency
  /-- A change of FREQUENCY waits for the cycle in progress to complete (R10). -/
  freqChange : Bool
  /-- When the cycle in progress ends. -/
  cycleEnd : Clock
  /-- The cycle in progress in the pattern 17, 17, 16 ms (R1). -/
  patternPos : Fin 3
  /-- Cycles completed in the window in progress. -/
  windowCount : Nat
  /-- Phases valid on every Cycle Frame of the window so far. -/
  windowValid : PhaseFlags
  /-- A window that has ended and whose Spectrum Frame has not been taken yet. -/
  owed : Option PhaseFlags
  /-- The Spectrum Frame of the window in progress was taken before its last Cycle Frame (R9). -/
  spectrumTaken : Bool
deriving DecidableEq, Repr, Inhabited

/-! ### Step Manager (chapters 2 and 4) -/

/-- Step states (Table 2-3). -/
inductive StepState | offline | cooling | ready | closing | closed | opening | locked
deriving DecidableEq, Repr, Inhabited

/-- Commanded position (Table 2-1). -/
inductive Commanded | opened | closed
deriving DecidableEq, Repr, Inhabited

/-- Sensed position (Table 2-2). -/
inductive Sensed | opened | closed | transit | invalid
deriving DecidableEq, Repr, Inhabited

/-- Lock reasons (Table 2-7). -/
inductive LockReason | unbalance | closeFail | openFail | slowOpen | uncommanded | positionInvalid
deriving DecidableEq, Repr, Inhabited

/-- A contact filter (R19, R63): the raw level, the filtered value once established, and the deadline of the
pending change or of the first establishment. -/
structure Contacts where
  raw : Bool
  filtered : Option Bool
  deadline : Option Clock
deriving DecidableEq, Repr, Inhabited

/-- A timed stage of Unbalance Protection (Figure 8-1), and the dead-line and OV2 stages (Figure 9-1). -/
inductive Stage
  | quiet
  | pickingUp (deadline : Clock)
  | operated
deriving DecidableEq, Repr, Inhabited

/-- The latest compensated result of a supervised step (R136). -/
structure UnbLatest where
  sx : Int
  sy : Int
  cx : Int
  cy : Int
  u : Nat
deriving DecidableEq, Repr, Inhabited

/-- One step record (Table 2-1), with the deadlines of chapter 4 and the fields of chapter 8. Its settings and its
in-service membership stand in the working settings. -/
structure StepRec where
  posA : Contacts
  posB : Contacts
  /-- Absent until the Step Table is built (R39). -/
  state : Option StepState
  commanded : Commanded
  /-- Absent until both inputs are established (R19). -/
  sensed : Option Sensed
  /-- The set of lock reasons; bit k is the reason at position k of Table 2-7. -/
  locks : BitVec 6
  openSince : Option Clock
  closedSince : Option Clock
  discharge : Option Clock
  /-- Recent closes, oldest first (R69). -/
  closeList : List Clock
  leave : Option Clock
  minClosed : Option Clock
  closeCount : Nat
  openCount : Nat
  lastOp : Option Byte
  /-- The unbalance-alarm flag (R142). -/
  alarmFlag : Bool
  watch : Option Clock
  inrush : Option Clock
  latest : Option UnbLatest
  alarmStage : Stage
  tripStage : Stage
deriving DecidableEq, Repr, Inhabited

/-- What the Step Manager owns beside the settings (R19, R22, R39). -/
structure StepMgr where
  built : Bool
  steps : Vector StepRec 6
  insertion : List StepNo
  /-- The 500 ms limit after cold reset, until it has been taken (R19). -/
  establish : Option Clock
deriving DecidableEq, Repr, Inhabited

/-! ### Switching Channel (chapter 3) -/

/-- Kind of an operation (Table 3-1). -/
inductive OpKind | close | open_
deriving DecidableEq, Repr, Inhabited

/-- Class of an operation, highest first (R42, Table 10-2). -/
inductive OpClass | protection | directed | control
deriving DecidableEq, Repr, Inhabited

/-- Cause of an operation (Table 3-1). -/
inductive Cause
  | raise | lower | directed | unbalance | ov1 | ov2 | deadLine | harmRemove | harmTrip | resEvict | retry
deriving DecidableEq, Repr, Inhabited

/-- The blocks that make requests (Table 3-1). -/
inductive Requester | vc | li | up | yp | hs | rl
deriving DecidableEq, Repr, Inhabited

/-- An operation record as it waits (Table 3-1). -/
structure OpRec where
  id : Byte
  kind : OpKind
  steps : Comb
  cls : OpClass
  cause : Cause
  requester : Requester
  joined : List Requester
  attempt : Nat
  queued : Clock
deriving DecidableEq, Repr, Inhabited

/-- The ACTIVE record: an operation record with the fields it has once started (Table 3-1). -/
structure ActiveOp where
  op : OpRec
  start : Clock
  /-- Sensed positions at the start; read for targeted steps only. -/
  startPos : Vector (Option Sensed) 6
  arrived : Comb
  timeout : Clock
deriving DecidableEq, Repr, Inhabited

/-- A pending retry (R59). -/
structure Retry where
  cls : OpClass
  requester : Requester
  attempt : Nat
  failedId : Byte
  /-- Absent once it has passed and the retry waits for READY (R60). -/
  deadline : Option Clock
deriving DecidableEq, Repr, Inhabited

/-- The coil outputs of a step: released, or asserted until a pulse deadline (R53, R54). -/
structure Coils where
  close : Option Clock
  open_ : Option Clock
deriving DecidableEq, Repr, Inhabited

/-- What the Switching Channel owns. -/
structure Channel where
  active : Option ActiveOp
  waiting : List OpRec
  rest : Option Clock
  nextId : Byte
  retries : Vector (Option Retry) 6
  coils : Vector Coils 6
  block : Contacts
  bktrip : Bool
deriving DecidableEq, Repr, Inhabited

/-! ### Voltage Controller (chapters 1 and 5) -/

/-- Direction of a voltage correction (R83). -/
inductive Direction | raise | lower
deriving DecidableEq, Repr, Inhabited

/-- The sample of an operation in progress (R83). -/
structure Sample where
  id : Byte
  dir : Direction
  step : StepNo
  vBefore : Int
deriving DecidableEq, Repr, Inhabited

/-- Voltage Controller states with what each holds (Table 5-2). -/
inductive VcState
  | watch
  | raiseTiming (deadline : Clock)
  | lowerTiming (deadline : Clock)
  | awaiting (s : Sample)
  | settling (s : Sample) (deadline : Clock)
  | suspended
deriving DecidableEq, Repr, Inhabited

/-- Band status (Table 1-4). -/
inductive Band | low | inBand | high
deriving DecidableEq, Repr, Inhabited

/-- The frame record (R14, R18). -/
inductive FrameRecord | none | usable | unusable
deriving DecidableEq, Repr, Inhabited

/-- What the Voltage Controller owns beside its settings. -/
structure VoltCtl where
  mode : Mode
  state : VcState
  supervision : Option Clock
  vc : Int
  saturated : Bool
  band : Band
  urgentHigh : Bool
  frame : FrameRecord
  /-- LL and UL of the settings the latest frame was computed with (R89, R91). -/
  ll : Int
  ul : Int
  /-- The URGENT-DELAY in force when the lower timer last started; it shortens that timer (R85, R99;
  log entry 36). -/
  urgentHeld : Nat
deriving DecidableEq, Repr, Inhabited

/-! ### Harmonic Supervisor (chapter 6) -/

/-- Filter states with the deadline each holds (Figure 6-1). -/
inductive FilterState
  | quiet
  | pickingUp (deadline : Clock)
  | active
  | dropping (deadline : Clock)
  | held
deriving DecidableEq, Repr, Inhabited

/-- Removal of a REMOVE-LAST filter (R102, R114). -/
inductive Removal
  | none
  | inHand (id : Byte)
  | complete
  | stopped
deriving DecidableEq, Repr, Inhabited

/-- The working fields of one filter (R102). -/
structure FilterRec where
  state : FilterState
  rep : Bool
  level : Option Nat
  asserted : Option Bool
  removal : Removal
deriving DecidableEq, Repr, Inhabited

/-- What the Harmonic Supervisor owns beside its settings. -/
structure Harmonic where
  filters : Vector FilterRec 8
  block : Bool
  freshness : Option Clock
deriving DecidableEq, Repr, Inhabited

/-! ### Resonance Learner (chapter 7) -/

/-- States of a Resonance Table entry (R121). -/
inductive EntryState | clear | suspect | vetoed | pinned
deriving DecidableEq, Repr, Inhabited

/-- The worst fields of an entry or of a judgement (R121, R128). -/
structure Worst where
  order : Nat
  ratio : Nat
  after : Nat
deriving DecidableEq, Repr, Inhabited

/-- One Resonance Table entry (R121). -/
structure Entry where
  state : EntryState
  worst : Option Worst
  expiry : Option Clock
deriving DecidableEq, Repr, Inhabited

/-- What a learning window holds from its start (R123). -/
structure WindowStart where
  id : Byte
  kind : OpKind
  step : StepNo
  before : Vector Nat 24
deriving DecidableEq, Repr, Inhabited

/-- The learning window by its phase (Figure 7-1). -/
inductive Window
  | none
  | started (w : WindowStart)
  | settling (w : WindowStart) (comb : Comb) (deadline : Clock)
  | afterWait (w : WindowStart) (comb : Comb)
deriving DecidableEq, Repr, Inhabited

/-- What the Resonance Learner owns beside its settings. -/
structure Learner where
  table : Vector Entry 64
  window : Window
deriving DecidableEq, Repr, Inhabited

/-! ### Unbalance Protection (chapter 8) -/

/-- The zeroing in flight (section 8.5). -/
structure Zeroing where
  step : StepNo
  length : Nat
  taken : Nat
  sumX : Int
  sumY : Int
  sumV : Nat
  accepted : Clock
deriving DecidableEq, Repr, Inhabited

/-! ### Yard Protection (chapter 9) -/

/-- The OV1 stage, which holds a repeat deadline while OPERATED (R155). -/
inductive Ov1Stage
  | quiet
  | pickingUp (deadline : Clock)
  | operated (repeatAt : Clock)
deriving DecidableEq, Repr, Inhabited

/-- Cause of a yard trip (R158). -/
inductive TripCause | ov2 | deadLine
deriving DecidableEq, Repr, Inhabited

/-- The yard trip state with its cause and restore deadline (section 9.2). -/
inductive TripState
  | normal
  | trippedAuto (c : TripCause)
  | restoring (c : TripCause) (deadline : Clock)
  | latched (c : TripCause)
deriving DecidableEq, Repr, Inhabited

/-- What Yard Protection owns beside its settings. -/
structure YardProt where
  ov1 : Ov1Stage
  ov2 : Stage
  dead : Stage
  trip : TripState
  /-- The trip-time list, oldest first (R159). -/
  times : List Clock
  leave : Option Clock
deriving DecidableEq, Repr, Inhabited

/-! ### Link Interface (chapter 10) -/

/-- Event kinds (Table 10-6), in the order of their codes. -/
inductive EventKind
  | vtLossOn | vtLossOff | externalOpen | uncommandedClose | stepLock | stepUnlock | serviceKept
  | opStart | opDone | opFail | opAborted | opCancelled | opDropped | opRetry | bktripOn | bktripOff
  | blockOn | blockOff | dischargeRestart | restStart | restEnd | modeChange | hostSilent
  | raiseInhibited | lowerInhibited | noCandidate | controlRequest | learnDone | learnDiscarded
  | estimateClamped | filterActive | filterHeld | filterClear | harmBlockOn | harmBlockOff
  | resSuspect | resVeto | resJudged | resExpire | resEvict | resDiscarded | vetoWritten
  | unbAlarm | unbTrip | zeroStart | zeroDone | zeroAborted | ov1Operate | yardTrip | yardLatch
  | yardRestore | coldStart | warmStart | storeInvalid | saveDone | saveFail
deriving DecidableEq, Repr, Inhabited

/-- An event record (Table 10-5); an absent optional field is `none`. -/
structure EventRec where
  time : Clock
  kind : EventKind
  cls : EvClass
  step : Option StepNo
  opId : Option Byte
  value : Option Int
  second : Option Int
deriving DecidableEq, Repr, Inhabited

/-- Result codes (Table 10-3). -/
inductive Result
  | ok | accepted | busy | state | mode | range | full | conflict | condition | unknown | malformed
  | timeout | event | cancelled
deriving DecidableEq, Repr, Inhabited

/-- The sticky flag set (R178). -/
structure Sticky where
  clampSeen : Bool
  unbSeen : Bool
  harmonicSeen : Bool
  ovSeen : Bool
  breakerSeen : Bool
  storeInvalid : Bool
deriving DecidableEq, Repr, Inhabited

/-- The channel state STATUS reports (R42). -/
inductive ChannelState
  | idle
  | channelRest
  | active (id : Byte)
deriving DecidableEq, Repr, Inhabited

/-- Step fields of a STATUS reply (R170). -/
structure StepStatus where
  /-- Absent before the Step Table is built. -/
  state : Option StepState
  locks : BitVec 6
  alarmFlag : Bool
deriving DecidableEq, Repr, Inhabited

/-- The contents of a STATUS reply (R170). -/
structure StatusReport where
  mode : Mode
  vcState : VcState
  band : Band
  urgentHigh : Bool
  vc : Int
  saturated : Bool
  frame : FrameRecord
  trip : TripState
  ov1 : Ov1Stage
  ov2 : Stage
  dead : Stage
  tripTimes : Nat
  inhibitors : BitVec 5
  harmBlock : Bool
  vtLoss : Bool
  built : Bool
  energized : Comb
  insertion : List StepNo
  insertionLength : Nat
  steps : Vector StepStatus 6
  channel : ChannelState
  waiting : Nat
  zeroing : Option Zeroing
  events : Nat
  gap : Bool
  attn : Bool
  waitHeld : Bool
  saving : Bool
  sticky : Sticky
deriving DecidableEq, Repr, Inhabited

/-- The contents of a STEP-READ reply (R171). -/
structure StepReport where
  step : StepNo
  inService : Bool
  /-- The record of Table 2-1, with the deadlines of chapter 4 and the working fields of R136. -/
  record : StepRec
  settings : StepSettings
  resting : Bool
  /-- The zeroing in flight (section 8.5). -/
  zeroing : Option Zeroing
deriving DecidableEq, Repr, Inhabited

/-- The contents of a FILTER-READ reply (R118). -/
structure FilterReport where
  filter : FilterNo
  settings : FilterSettings
  enabled : Bool
  record : FilterRec
deriving DecidableEq, Repr, Inhabited

/-- The learning window as VETO-READ names its phase (R121). -/
inductive WindowPhase | none | started | settling | afterWait
deriving DecidableEq, Repr, Inhabited

/-- The contents of a VETO-READ reply (R171). -/
structure VetoReport where
  first : Nat
  entries : List Entry
  phase : WindowPhase
  windowId : Option Byte
  windowComb : Option Comb
deriving DecidableEq, Repr, Inhabited

/-- Reply contents after the result code. -/
inductive ReplyBody
  | empty
  | operation (id : Byte)
  | status (r : StatusReport)
  | measure (cycle : Option CycleFrame) (spectrum : Option SpectrumFrame)
  | step (r : StepReport)
  | filter (r : FilterReport)
  | veto (r : VetoReport)
  | events (records : List EventRec) (returned : Nat) (gap : Bool) (remaining : Nat)
  | waitEvent (kind : EventKind) (cls : EvClass) (time : Clock) (records : Nat)
  | waitTimeout (records : Nat)
deriving DecidableEq, Repr, Inhabited

/-- A reply as it waits to be sent (Table 10-1): its kind byte, tag, result code and contents. -/
structure Reply where
  kind : Byte
  tag : Byte
  result : Result
  body : ReplyBody
deriving DecidableEq, Repr, Inhabited

/-- A held WAIT (R177); `mask` has bit 0 INFO, bit 1 ALARM, bit 2 TRIP. -/
structure HeldWait where
  tag : Byte
  mask : BitVec 3
  deadline : Clock
deriving DecidableEq, Repr, Inhabited

/-- The receiver's phase with the frame in progress (R166). -/
inductive Receiver
  | hunt
  /-- The bytes of length, kind and tag taken so far. -/
  | header (taken : List Byte)
  /-- Payload bytes taken so far, of `n`. -/
  | payload (n kind tag : Byte) (taken : List Byte)
  /-- The first check byte once taken. -/
  | check (n kind tag : Byte) (payload : List Byte) (first : Option Byte)
deriving DecidableEq, Repr, Inhabited

/-- What the Link Interface owns. -/
structure Link where
  /-- RATE1, RATE0 as read at cold reset (R181). -/
  rate : BitVec 2
  rx : Receiver
  /-- When the frame in progress is discarded for a silent line (R166). -/
  rxLimit : Option Clock
  replies : List Reply
  held : Option HeldWait
  events : List EventRec
  gap : Bool
  sticky : Sticky
  attn : Bool
deriving DecidableEq, Repr, Inhabited

/-! ### Settings Store (section 10.6) -/

/-- An image slot (R179); `valid` says whether its check matches. -/
structure Slot where
  image : Settings
  gen : BitVec 32
  valid : Bool
deriving DecidableEq, Repr, Inhabited

/-- The two slots by name. -/
inductive SlotName | a | b
deriving DecidableEq, Repr, Inhabited

/-- A SAVE in flight (R179). -/
structure Saving where
  slot : SlotName
  image : Settings
  gen : BitVec 32
  /-- The latest moment at which the write ends. -/
  limit : Clock
deriving DecidableEq, Repr, Inhabited

/-- What the Settings Store owns. -/
structure Store where
  slotA : Slot
  slotB : Slot
  saving : Option Saving
deriving DecidableEq, Repr, Inhabited

end Sys2Proof.Machine
end

