-- ==== Sys2Proof/Machine/Codes.lean ====
section
/-! DEFINITION. The numbers that stand for named values in event records and replies (Tables 10-2, 10-3, 10-6), and the reasons the chapters name. -/

namespace Sys2Proof.Machine

/-- Table 10-6. -/
def EventKind.code (k : EventKind) : Nat := k.ctorIdx + 1

/-- Table 10-3. -/
def Result.code (r : Result) : Nat := r.ctorIdx

/-- Mode: AUTO, REMOTE, HOLD (Table 10-2). -/
def Mode.code (m : Mode) : Nat := m.ctorIdx

/-- FALLBACK in the order of its settings table: AUTO, HOLD. -/
def Fallback.code (f : Fallback) : Nat := f.ctorIdx

/-- BLOCK-OVERRIDE in the order of its settings table. -/
def BlockOverride.code (b : BlockOverride) : Nat := b.ctorIdx

/-- Operation kind: CLOSE, OPEN. -/
def OpKind.code (k : OpKind) : Nat := k.ctorIdx

/-- Cause in Table 3-1 order. -/
def Cause.code (c : Cause) : Nat := c.ctorIdx

/-- A yard trip's cause is a cause of Table 3-1 (log entry 21). -/
def TripCause.cause : TripCause → Cause
  | .ov2 => .ov2
  | .deadLine => .deadLine

/-- Lock reason in Table 2-7 order. -/
def LockReason.code (r : LockReason) : Nat := r.ctorIdx

/-- Resonance Table entry state: CLEAR, SUSPECT, VETOED, PINNED. -/
def EntryState.code (e : EntryState) : Nat := e.ctorIdx

/-- Direction: RAISE, LOWER (R83). -/
def Direction.code (d : Direction) : Nat := d.ctorIdx

/-- Class of a STEP-LOCK record (Table 2-7). -/
def LockReason.cls : LockReason → EvClass
  | .unbalance => .alarm
  | .closeFail => .alarm
  | .openFail => .trip
  | .slowOpen => .alarm
  | .uncommanded => .trip
  | .positionInvalid => .alarm

/-- A lock reason as a set of one (Table 10-2: bit k for the reason at position k). -/
def LockReason.mask (r : LockReason) : BitVec 6 := BitVec.twoPow 6 r.code

/-- Failure kinds of a step outside the arrived set, in R56 order. -/
inductive FailureKind | noMotion | stuckTransit | invalid | wrongEnd
deriving DecidableEq, Repr

/-- R56 order. -/
def FailureKind.code (f : FailureKind) : Nat := f.ctorIdx

/-- Reasons of OP-CANCELLED (Table 3-6). -/
inductive CancelReason | superseded | merged | displaced | hostSilent | notReady
deriving DecidableEq, Repr

/-- The order of Table 3-6. -/
def CancelReason.code (r : CancelReason) : Nat := r.ctorIdx

/-- Reasons of OP-DROPPED: Table 3-3, then NOT-ENERGIZED, NOT-ELIGIBLE, CONFLICT, FULL (Table 10-2). -/
inductive DropReason
  | notReady | resting | unbalanceAlarm | block | yardTrip | ov1 | harmonic | vtLoss | vetoed | pinned
  | notEnergized | notEligible | conflict | full
deriving DecidableEq, Repr

/-- Table 10-2, reason of OP-DROPPED. -/
def DropReason.code (r : DropReason) : Nat := r.ctorIdx

/-- Reasons of LEARN-DISCARDED (Table 5-4). -/
inductive LearnReason
  | stepSet | operation | position | yardTrip | vtLoss | unusable | mode | config | restart
deriving DecidableEq, Repr

/-- The order of Table 5-4. -/
def LearnReason.code (r : LearnReason) : Nat := r.ctorIdx

/-- Reasons of RES-DISCARDED (Table 7-2). -/
inductive ResReason
  | operation | position | yardTrip | vtLoss | unusable | mode | config | restart | noSpectrum
deriving DecidableEq, Repr

/-- The order of Table 7-2. -/
def ResReason.code (r : ResReason) : Nat := r.ctorIdx

/-- Reasons of ZERO-ABORTED (Table 8-2). -/
inductive ZeroReason | stepLeft | voltage | vtLoss | clipped | cancelled | restart
deriving DecidableEq, Repr

/-- The order of Table 8-2. -/
def ZeroReason.code (r : ZeroReason) : Nat := r.ctorIdx

/-- Reasons of FILTER-CLEAR (Table 6-2). -/
inductive ClearReason | dropout | acknowledge | disabled | restart
deriving DecidableEq, Repr

/-- The order of Table 6-2. -/
def ClearReason.code (r : ClearReason) : Nat := r.ctorIdx

/-- Second value of YARD-RESTORE: DELAY, ACKNOWLEDGE (Table 9-3). -/
inductive RestoreWay | delay | acknowledge
deriving DecidableEq, Repr

/-- The order of Table 9-3. -/
def RestoreWay.code (r : RestoreWay) : Nat := r.ctorIdx

/-- Outcomes of an operation (Table 3-5). -/
inductive OpOutcome | success | failed | aborted | cancelled | dropped
deriving DecidableEq, Repr

/-- Answers to an operation request (Table 3-2), with the id each names. -/
inductive Answer
  | queued (id : Byte)
  | merged (id : Byte)
  | takenOver (id : Byte)
  | absorbed (id : Byte)
  | conflict
  | full
deriving DecidableEq, Repr

/-- Table 3-2 order. -/
def Answer.code : Answer → Nat
  | .queued _ => 0
  | .merged _ => 1
  | .takenOver _ => 2
  | .absorbed _ => 3
  | .conflict => 4
  | .full => 5

/-- The operation id an answer names. -/
def Answer.id : Answer → Option Byte
  | .queued i => some i
  | .merged i => some i
  | .takenOver i => some i
  | .absorbed i => some i
  | .conflict => none
  | .full => none

/-- The reason of RAISE-INHIBITED: INHIBITOR, FULL, CONFLICT (Table 5-4). -/
def raiseRefusal : Answer → Option Nat
  | .full => some 1
  | .conflict => some 2
  | .queued _ => none
  | .merged _ => none
  | .takenOver _ => none
  | .absorbed _ => none

/-- The reason of LOWER-INHIBITED: FULL, CONFLICT (Table 5-4). -/
def lowerRefusal : Answer → Option Nat
  | .full => some 0
  | .conflict => some 1
  | .queued _ => none
  | .merged _ => none
  | .takenOver _ => none
  | .absorbed _ => none

end Sys2Proof.Machine
end

