-- ==== Sys2Proof/Machine/Arith.lean ====
section
/-! DEFINITION. Arithmetic of 00_scope.md and of the yard clock: deadlines, rounding, clamping, the integer square root and combinations. -/

namespace Sys2Proof.Machine

/-- A deadline `ms` milliseconds after `t`, modulo 2^32 (R12). -/
def addMs (t : Clock) (ms : Nat) : Clock := t + BitVec.ofNat 32 ms

/-- A deadline `s` seconds after `t`. -/
def addSec (t : Clock) (s : Nat) : Clock := addMs t (s * 1000)

/-- A deadline `m` minutes after `t`. -/
def addMin (t : Clock) (m : Nat) : Clock := addMs t (m * 60000)

/-- A deadline `h` hours after `t`. -/
def addHour (t : Clock) (h : Nat) : Clock := addMs t (h * 3600000)

/-- A deadline has passed when now - D, read as a signed 32-bit number, is zero or positive (R13). -/
def passed (now d : Clock) : Bool := decide (0 ≤ (now - d).toInt)

/-- A deadline that is present and has passed: its expiry may be taken (R13). -/
def due (now : Clock) : Option Clock → Bool
  | none => false
  | some d => passed now d

/-- The earlier of two deadlines as they stand at `now` (R85): the one fewer milliseconds ahead. -/
def earlier (now d e : Clock) : Clock := if (d - now).toInt ≤ (e - now).toInt then d else e

/-- Divide, floor (a negative quotient goes to the next lower whole number). -/
def divFloor (a : Int) (b : Nat) : Int := a.fdiv b

/-- Divide, toward zero. -/
def divZero (a : Int) (b : Nat) : Int := a.tdiv b

/-- Divide, to the nearest whole number, a half away from zero. -/
def divNearest (a : Int) (b : Nat) : Int :=
  if 0 ≤ a then (2 * a + b).fdiv (2 * b) else -((2 * (-a) + b).fdiv (2 * b))

/-- Clamp to a range. -/
def clampInt (lo hi a : Int) : Int := if a < lo then lo else if hi < a then hi else a

/-- Clamp to a range. -/
def clampNat (lo hi a : Nat) : Nat := if a < lo then lo else if hi < a then hi else a

/-- One binary digit of the square root at a time, from digit `b - 1` down. -/
def isqrtFrom : Nat → Nat → Nat → Nat
  | 0, _, acc => acc
  | b + 1, n, acc => isqrtFrom b n (if (acc + 2 ^ b) * (acc + 2 ^ b) ≤ n then acc + 2 ^ b else acc)

/-- The largest whole number whose square does not exceed `n`, exact for every `n` below 2^64 (the device
needs up to 2^32). -/
def isqrt (n : Nat) : Nat := isqrtFrom 32 n 0

/-- The combination of one step. -/
def bit (k : StepNo) : Comb := BitVec.twoPow 6 k.val

/-- Membership of a step in a combination. -/
def mem (c : Comb) (k : StepNo) : Bool := c.getLsbD k.val

/-- A combination without the members of another. -/
def without (c d : Comb) : Comb := c &&& ~~~d

/-- The six steps in step-number order. -/
def allSteps : List StepNo := [0, 1, 2, 3, 4, 5]

/-- The eight filters in number order. -/
def allFilters : List FilterNo := [0, 1, 2, 3, 4, 5, 6, 7]

/-- The members of a combination in step-number order. -/
def stepsOf (c : Comb) : List StepNo := allSteps.filter (mem c)

/-- The step of a combination of exactly one step. -/
def single (c : Comb) : Option StepNo :=
  match stepsOf c with
  | [k] => some k
  | _ => none

/-- The combination of the steps of which `p` holds. -/
def combOf (p : StepNo → Bool) : Comb := allSteps.foldl (fun c k => if p k then c ||| bit k else c) 0

/-- The number a flag bit stands for at a position. -/
def flagBit (n : Nat) (b : Bool) : Nat := if b then 2 ^ n else 0

end Sys2Proof.Machine
end

