-- ==== Sys2Proof/Machine/StartValues.lean ====
section
/-! DEFINITION. The cold-reset start values of every block (R11, R18, R39, R64, R77, R100, R119, R134, R151, R163, R181), from the settings as loaded. -/

namespace Sys2Proof.Machine

/-- Length of the first cycle of a timebase (R1, R10). -/
def firstCycle : Frequency → Nat
  | .hz50 => 20
  | .hz60 => 17

/-- R11. -/
def MeasUnit.start (f : Frequency) : MeasUnit where
  cycle := none
  spectrum := none
  angleRef := 0
  freq := f
  freqChange := false
  cycleEnd := addMs 0 (firstCycle f)
  patternPos := 0
  windowCount := 0
  windowValid := ⟨true, true, true⟩
  owed := none
  spectrumTaken := false

/-- An input after cold reset: no filtered value yet, steady from clock 0 (R19, R63). -/
def Contacts.start (raw : Bool) (filterMs : Nat) : Contacts := ⟨raw, none, some (addMs 0 filterMs)⟩

/-- A step record before the Step Table is built (R39, R77, R151). -/
def StepRec.start (posA posB : Bool) (c : StepSettings) : StepRec where
  posA := .start posA c.contactFilter
  posB := .start posB c.contactFilter
  state := none
  commanded := .opened
  sensed := none
  locks := 0
  openSince := none
  closedSince := none
  discharge := none
  closeList := []
  leave := none
  minClosed := none
  closeCount := 0
  openCount := 0
  lastOp := none
  alarmFlag := false
  watch := none
  inrush := none
  latest := none
  alarmStage := .quiet
  tripStage := .quiet

/-- R39, and the 500 ms limit of R19. -/
def StepMgr.start (steps : Vector StepRec 6) : StepMgr where
  built := false
  steps := steps
  insertion := []
  establish := some (addMs 0 500)

/-- The fixed contact filter of the BLOCK input (R63). -/
def blockFilterMs : Nat := 20

/-- R64. -/
def Channel.start (blockRaw : Bool) : Channel where
  active := none
  waiting := []
  rest := none
  nextId := 0
  retries := Vector.replicate 6 none
  coils := Vector.replicate 6 ⟨none, none⟩
  block := .start blockRaw blockFilterMs
  bktrip := false

/-- Lower limit LL of the band (R17). -/
def lowerLimit (c : ControlSettings) : Int := (c.setpoint : Int) - (c.bandwidth / 2 : Nat)

/-- Upper limit UL of the band (R17). -/
def upperLimit (c : ControlSettings) : Int := (c.setpoint : Int) + (c.bandwidth / 2 : Nat)

/-- The supervision deadline set at `now` in a mode (R81): present in REMOTE with SUPERVISION not 0. -/
def supervisionAt (now : Clock) (m : Mode) (supervision : Nat) : Option Clock :=
  if m = .remote ∧ supervision ≠ 0 then some (addSec now supervision) else none

/-- R18, R100, and R81 for START-MODE REMOTE. -/
def VoltCtl.start (c : ControlSettings) : VoltCtl where
  mode := c.startMode
  state := if c.startMode = .auto then .watch else .suspended
  supervision := supervisionAt 0 c.startMode c.supervision
  vc := 0
  saturated := false
  band := .inBand
  urgentHigh := false
  frame := .none
  ll := lowerLimit c
  ul := upperLimit c
  urgentHeld := c.urgentDelay

/-- A filter that is QUIET with nothing measured (R102, R119). -/
def FilterRec.quiet : FilterRec := ⟨.quiet, false, none, none, .none⟩

/-- R119. -/
def Harmonic.start : Harmonic := ⟨Vector.replicate 8 .quiet, false, none⟩

/-- A CLEAR entry (R121). -/
def Entry.clear : Entry := ⟨.clear, none, none⟩

/-- R134. -/
def Learner.start : Learner := ⟨Vector.replicate 64 .clear, .none⟩

/-- R163. -/
def YardProt.start : YardProt := ⟨.quiet, .quiet, .quiet, .normal, [], none⟩

/-- Classes in their order, INFO below ALARM below TRIP (R176). -/
def EvClass.rank : EvClass → Nat
  | .info => 0
  | .alarm => 1
  | .trip => 2

/-- ATTN is asserted exactly while a record of class at or above ATTN-CLASS is queued (R176). -/
def attnOf (attnClass : EvClass) (events : List EventRec) : Bool :=
  events.any fun e => attnClass.rank ≤ e.cls.rank

/-- The first record after cold reset: COLD-START, class ALARM, time 0, no optional field (R181). -/
def coldStartRecord : EventRec := ⟨0, .coldStart, .alarm, none, none, none, none⟩

/-- STORE-INVALID, class ALARM, at cold reset (R180). -/
def storeInvalidRecord : EventRec := ⟨0, .storeInvalid, .alarm, none, none, none, none⟩

/-- No sticky flag set (R178). -/
def Sticky.none : Sticky := ⟨false, false, false, false, false, false⟩

/-- R181: HUNT, no reply, no WAIT, no gap, and the records of start-up after COLD-START. `invalid` says that no
store slot is valid (R180). -/
def Link.start (rate : BitVec 2) (attnClass : EvClass) (invalid : Bool) (more : List EventRec) : Link :=
  let events := coldStartRecord :: ((if invalid then [storeInvalidRecord] else []) ++ more)
  { rate := rate
    rx := .hunt
    rxLimit := none
    replies := []
    held := none
    events := events
    gap := false
    sticky := { Sticky.none with storeInvalid := invalid }
    attn := attnOf attnClass events }

/-- A slot that holds no valid image. -/
def Slot.blank : Slot := ⟨.default, 0, false⟩

/-- A store with no valid slot and no SAVE in flight. -/
def Store.blank : Store := ⟨.blank, .blank, none⟩

end Sys2Proof.Machine
end

