-- ==== Sys2Proof/Machine/State.lean ====
section
/-! DEFINITION. The state of the device, its fault and refusal reasons, and the state right after the first cold reset. -/

namespace Sys2Proof.Machine

/-- Why the block stops. No command stops it: every rule gives an effect, a refusal code in a reply or no change. -/
inductive Fault
deriving DecidableEq, Repr

/-- Why a command is refused by the model. -/
inductive Refusal
  /-- Raised by an arm of exec that has no meaning yet. Safe: the model stops. No arm raises it. -/
  | notModelled (mnemonic : String)
deriving DecidableEq, Repr

/-- The whole device: plain data, one part per block (00_scope.md, Table 0-1). -/
structure State where
  /-- Commands waiting, first in first out. -/
  pending : List Instr
  /-- The yard clock (R12). -/
  clock : Clock
  mu : MeasUnit
  sm : StepMgr
  sc : Channel
  vc : VoltCtl
  hs : Harmonic
  rl : Learner
  /-- The zeroing in flight of Unbalance Protection (section 8.5). -/
  zeroing : Option Zeroing
  yp : YardProt
  li : Link
  store : Store
  /-- The working settings. -/
  settings : Settings
  /-- The place in the pseudo-random sequence of jitters (R86). -/
  draws : Nat
  /-- How many other free values the device has taken: the model's own counter (log entry 29). -/
  fresh : Nat
deriving DecidableEq, Repr

/-- The machine right after the first cold reset: no valid image in the store (log entry 2), every input pin
low (log entry 1), every other field as the chapters' start values give it. -/
def State.reset : State where
  pending := []
  clock := 0
  mu := .start Settings.default.yard.frequency
  sm := .start (Vector.replicate 6 (.start false false .default))
  sc := .start false
  vc := .start Settings.default.control
  hs := .start
  rl := .start
  zeroing := none
  yp := .start
  li := .start 0 Settings.default.yard.attnClass true []
  store := .blank
  settings := .default
  draws := 0
  fresh := 0

end Sys2Proof.Machine
end

