-- ==== Sys2Proof/Machine/Flags.lean ====
section
/-! DEFINITION. The Event Queue with ATTN and the held WAIT (R174, R176, R177), the sticky flags (R178), the close inhibitors and the eligibility predicates (R38, R72, R75). -/

namespace Sys2Proof.Machine

/-! ### Event Queue, ATTN and the held WAIT -/

/-- The class mask bit of a WAIT (R177). -/
def inMask (mask : BitVec 3) (c : EvClass) : Bool := mask.getLsbD c.rank

/-- The queue after an append, whether the new record joined it, and whether a record was displaced or
discarded (R174). -/
def joinQueue (events : List EventRec) (e : EventRec) : List EventRec × Bool × Bool :=
  if events.length < 64 then (events ++ [e], true, false)
  else if events.any (fun r => r.cls = .info) then (events.eraseP (fun r => r.cls = .info) ++ [e], true, true)
  else if events.any (fun r => r.cls = .alarm) then (events.eraseP (fun r => r.cls = .alarm) ++ [e], true, true)
  else (events, false, true)

/-- The kind byte of a reply: the request kind plus 0x80; 0xFF for a request kind of 0x80 or more (R165). -/
def replyKind (kind : Byte) : Byte := if kind.toNat < 0x80 then kind + 0x80 else 0xFF

/-- Request kind of WAIT (Table 10-4). -/
def waitKind : Byte := 0x13

/-- Append one record: R174, then the held WAIT's answer (R177) and ATTN (R176). -/
def Link.append (attnClass : EvClass) (e : EventRec) (l : Link) : Link :=
  let (events, joined, displaced) := joinQueue l.events e
  let l' := { l with events := events, gap := l.gap || displaced, attn := attnOf attnClass events }
  match l.held with
  | none => l'
  | some w =>
    if joined && inMask w.mask e.cls then
      { l' with
        held := none
        replies := l'.replies ++ [⟨replyKind waitKind, w.tag, .event, .waitEvent e.kind e.cls e.time events.length⟩] }
    else l'

/-- Append a record to the Event Queue (R174). -/
def appendEvent (e : EventRec) (s : State) : State :=
  { s with li := s.li.append s.settings.yard.attnClass e }

/-- Append a record with the clock value of the present event (R174). -/
def note (kind : EventKind) (cls : EvClass) (step : Option StepNo) (id : Option Byte) (value second : Option Int)
    (s : State) : State :=
  appendEvent ⟨s.clock, kind, cls, step, id, value, second⟩ s

/-- ATTN formed afresh (R176). -/
def reformAttn (s : State) : State :=
  { s with li := { s.li with attn := attnOf s.settings.yard.attnClass s.li.events } }

/-- A reply joins the reply list (R167). -/
def sendReply (r : Reply) (s : State) : State := { s with li := { s.li with replies := s.li.replies ++ [r] } }

/-! ### Sticky flags (R178) -/

/-- Set CLAMP-SEEN when the condition holds. -/
def setClampSeen (c : Bool) (s : State) : State :=
  { s with li := { s.li with sticky := { s.li.sticky with clampSeen := s.li.sticky.clampSeen || c } } }

/-- Set UNB-SEEN. -/
def setUnbSeen (s : State) : State :=
  { s with li := { s.li with sticky := { s.li.sticky with unbSeen := true } } }

/-- Set HARMONIC-SEEN. -/
def setHarmonicSeen (s : State) : State :=
  { s with li := { s.li with sticky := { s.li.sticky with harmonicSeen := true } } }

/-- Set OV-SEEN. -/
def setOvSeen (s : State) : State :=
  { s with li := { s.li with sticky := { s.li.sticky with ovSeen := true } } }

/-- Set BREAKER-SEEN. -/
def setBreakerSeen (s : State) : State :=
  { s with li := { s.li with sticky := { s.li.sticky with breakerSeen := true } } }

/-- Set STORE-INVALID. -/
def setStoreInvalid (s : State) : State :=
  { s with li := { s.li with sticky := { s.li.sticky with storeInvalid := true } } }

/-! ### Views of the state -/

/-- The record of a step. -/
def State.stp (s : State) (k : StepNo) : StepRec := s.sm.steps[k]

/-- The working settings of a step. -/
def State.cfg (s : State) (k : StepNo) : StepSettings := s.settings.steps[k]

/-- The working fields of a filter. -/
def State.filt (s : State) (f : FilterNo) : FilterRec := s.hs.filters[f]

/-- The working settings of a filter. -/
def State.fcfg (s : State) (f : FilterNo) : FilterSettings := s.settings.filters[f]

/-- Membership of the filter-enable set (R117). -/
def State.isEnabled (s : State) (f : FilterNo) : Bool := s.settings.enabled.getLsbD f.val

/-- Membership of the in-service set (R35). -/
def State.inService (s : State) (k : StepNo) : Bool := mem s.settings.inService k

/-- The Resonance Table entry of a combination (R121). -/
def State.entry (s : State) (c : Comb) : Entry := s.rl.table[c.toFin]

/-- A record's place in the energized set (R21): CLOSED or OPENING, or LOCKED with the sensed position not OPEN. -/
def StepRec.energized (r : StepRec) : Bool :=
  match r.state with
  | some .closed => true
  | some .opening => true
  | some .locked => r.sensed ≠ some .opened
  | some .offline => false
  | some .cooling => false
  | some .ready => false
  | some .closing => false
  | none => false

/-- The energized set (R21). Before the Step Table is built no step has a state, and the set is empty. -/
def State.energized (s : State) : Comb := combOf fun k => (s.stp k).energized

/-- The VT-LOSS condition held by the Measurement Unit (R5). -/
def State.vtLoss (s : State) : Bool :=
  match s.mu.cycle with
  | none => false
  | some f => f.vtLoss

/-- Whether an operation on the step is ACTIVE. -/
def State.activeOn (s : State) (k : StepNo) : Bool :=
  match s.sc.active with
  | none => false
  | some a => mem a.op.steps k

/-- Effective BLOCK (R63); an input not yet established is treated as asserted. -/
def effectiveBlock (o : BlockOverride) (b : Contacts) : Bool :=
  match o with
  | .follow => b.filtered.getD true
  | .force => true
  | .ignore => false

/-- Effective BLOCK as it stands. -/
def State.blocked (s : State) : Bool := effectiveBlock s.settings.yard.blockOverride s.sc.block

/-- The close inhibitor YARD-TRIP (R38). -/
def TripState.isNormal : TripState → Bool
  | .normal => true
  | .trippedAuto _ => false
  | .restoring _ _ => false
  | .latched _ => false

/-- The inhibitor set in R38 order: BLOCK, YARD-TRIP, OV1, HARMONIC, VT-LOSS. -/
def State.inhibitors (s : State) : BitVec 5 :=
  BitVec.ofNat 5 (flagBit 0 s.blocked + flagBit 1 (!s.yp.trip.isNormal) + flagBit 2 (s.yp.ov1 ≠ .quiet)
    + flagBit 3 s.hs.block + flagBit 4 s.vtLoss)

/-- A step is resting while its close list holds CLOSE-LIMIT or more entries (R72). -/
def State.resting (s : State) (k : StepNo) : Bool := (s.cfg k).closeLimit ≤ (s.stp k).closeList.length

/-- The first failing condition of eligible-to-close (R38) for a class, in the order of Table 3-3, tests 1 to 8. -/
def closeBar (cls : OpClass) (k : StepNo) (s : State) : Option DropReason :=
  if (s.stp k).state ≠ some .ready then some .notReady
  else if s.resting k then some .resting
  else if cls = .control ∧ (s.stp k).alarmFlag then some .unbalanceAlarm
  else if s.blocked then some .block
  else if !s.yp.trip.isNormal then some .yardTrip
  else if s.yp.ov1 ≠ .quiet then some .ov1
  else if s.hs.block then some .harmonic
  else if cls = .control ∧ s.vtLoss then some .vtLoss
  else none

/-- Eligible-to-close for a class (R38). -/
def eligibleToClose (cls : OpClass) (k : StepNo) (s : State) : Bool := closeBar cls k s = none

/-- Eligible-to-open for CONTROL, evaluated through the minimum-closed deadline (R38, R75). -/
def eligibleToOpen (k : StepNo) (s : State) : Bool :=
  (s.stp k).state = some .closed ∧ (s.stp k).closedSince ≠ none ∧ (s.stp k).minClosed = none

end Sys2Proof.Machine
end

