-- ==== Sys2Proof/Machine/Ops.lean ====
section
/-! DEFINITION. The shared operations over the Step Table and what a change of a step brings with it: the energized set and the Insertion List, supervision, locks, close accounting, discards of the sample, the learning window and the zeroing, pending retries and BKTRIP. -/

namespace Sys2Proof.Machine

/-! ### Writing a step record -/

/-- Unbalance Protection supervises a step whose sensed position is CLOSED and whose state is CLOSED or LOCKED
(R136). -/
def StepRec.supervised (r : StepRec) : Bool :=
  r.sensed = some .closed && (r.state = some .closed || r.state = some .locked)

/-- A step that is not supervised has both stages QUIET and no latest values (R136). -/
def StepRec.settle (r : StepRec) : StepRec :=
  if r.supervised then r else { r with latest := none, alarmStage := .quiet, tripStage := .quiet }

/-- The Insertion List formed afresh: the members kept in their order, then the steps that have entered, in
step-number order (R22). -/
def reformInsertion (e : Comb) (l : List StepNo) : List StepNo :=
  l.filter (mem e) ++ (stepsOf e).filter fun k => !l.contains k

/-- Put a step record into the Step Table without re-forming anything. -/
def setStep (k : StepNo) (r : StepRec) (s : State) : State :=
  { s with sm := { s.sm with steps := s.sm.steps.set k r } }

/-- The one way a step record changes: the record is written with its supervision settled (R136), and the
energized set and the Insertion List follow (R21, R22). -/
def putStep (k : StepNo) (r : StepRec) (s : State) : State :=
  let t := setStep k r.settle s
  { t with sm := { t.sm with insertion := reformInsertion t.energized s.sm.insertion } }

/-- Change the settings of a step. -/
def setCfg (k : StepNo) (c : StepSettings) (s : State) : State :=
  { s with settings := { s.settings with steps := s.settings.steps.set k c } }

/-- A counter that stays at 2^32 - 1 (R70, R76). -/
def countUp (n : Nat) : Nat := if n < 2 ^ 32 - 1 then n + 1 else n

/-! ### Discards and cancellations -/

/-- Discard the sample held in SETTLING; in another state nothing is held to discard (R96). -/
def discardSample (reason : LearnReason) (s : State) : State :=
  match s.vc.state with
  | .settling smp _ =>
    note .learnDiscarded .info (some smp.step) (some smp.id) (some reason.code) none
      { s with vc := { s.vc with state := .watch } }
  | .watch | .raiseTiming _ | .lowerTiming _ | .awaiting _ | .suspended => s

/-- Forget the learning window and append RES-DISCARDED (R127). -/
def dropWindow (w : WindowStart) (reason : ResReason) (s : State) : State :=
  note .resDiscarded .info (some w.step) (some w.id) (some reason.code) none
    { s with rl := { s.rl with window := .none } }

/-- Discard a window in SETTLING or AFTER-WAIT (R127). -/
def discardWindow (reason : ResReason) (s : State) : State :=
  match s.rl.window with
  | .settling w _ _ => dropWindow w reason s
  | .afterWait w _ => dropWindow w reason s
  | .none | .started _ => s

/-- Abort the zeroing in flight, if there is one (R149). -/
def abortZero (reason : ZeroReason) (s : State) : State :=
  match s.zeroing with
  | none => s
  | some z => note .zeroAborted .info (some z.step) none (some reason.code) (some z.taken) { s with zeroing := none }

/-- Cancel the pending retry of a step, if there is one (R59). -/
def cancelRetry (reason : CancelReason) (k : StepNo) (s : State) : State :=
  match s.sc.retries[k] with
  | none => s
  | some r =>
    note .opCancelled .info (some k) (some r.failedId) (some (bit k).toNat) (some reason.code)
      { s with sc := { s.sc with retries := s.sc.retries.set k none } }

/-! ### Lock reasons and BKTRIP -/

/-- Whether a set of lock reasons holds a reason. -/
def hasLock (locks : BitVec 6) (r : LockReason) : Bool := locks.getLsbD r.code

/-- Whether some step's lock reasons include OPEN-FAIL. -/
def anyOpenFail (s : State) : Bool := allSteps.any fun k => hasLock (s.stp k).locks .openFail

/-- Drive BKTRIP from the lock reasons; `k` is the step whose change is reported (R61). -/
def reformBktrip (k : StepNo) (s : State) : State :=
  if anyOpenFail s = s.sc.bktrip then s
  else if anyOpenFail s then
    note .bktripOn .trip (some k) none none none { s with sc := { s.sc with bktrip := true } }
  else note .bktripOff .info none none none none { s with sc := { s.sc with bktrip := false } }

/-- A pending retry does not outlast its step's READY or COOLING (R59). -/
def reportRetry (k : StepNo) (s : State) : State :=
  if (s.stp k).state = some .ready ∨ (s.stp k).state = some .cooling then s else cancelRetry .notReady k s

/-- A zeroing does not outlast its step's state CLOSED with contacts CLOSED (R149). -/
def reportZero (k : StepNo) (s : State) : State :=
  match s.zeroing with
  | none => s
  | some z =>
    if z.step = k ∧ ¬((s.stp k).state = some .closed ∧ (s.stp k).sensed = some .closed) then abortZero .stepLeft s
    else s

/-- What the Step Manager's report of a changed step does at the blocks that follow it: the pending retry (R59),
the zeroing (R149) and BKTRIP (R61). Their records join in that order, and after the record of the change
itself, which no rule gives (DESIGN CHOICE, log entry 11) but for STEP-LOCK before BKTRIP-ON and before BKTRIP-OFF, as
in the worked case of chapter 3. -/
def reportStep (k : StepNo) (s : State) : State := s |> reportRetry k |> reportZero k |> reformBktrip k

/-- Add a lock reason to a step (R33). A reason already held changes nothing. -/
def addLock (reason : LockReason) (k : StepNo) (s : State) : State :=
  if hasLock (s.stp k).locks reason then s
  else
    let t := note .stepLock reason.cls (some k) none (some reason.code) none
      (putStep k { s.stp k with
        state := some .locked, locks := (s.stp k).locks ||| reason.mask, watch := none } s)
    if reason = .unbalance then t else setBreakerSeen t

/-- Lock a step and report the change. -/
def lockStep (reason : LockReason) (k : StepNo) (s : State) : State := s |> addLock reason k |> reportStep k

/-- Clear a step's lock reasons with its move to a state, and append STEP-UNLOCK with the reasons cleared
(R34, R36). -/
def unlockStep (k : StepNo) (r : StepRec) (s : State) : State :=
  note .stepUnlock .info (some k) none (some ((s.stp k).locks.toNat : Int)) none (putStep k { r with locks := 0 } s)

/-! ### Close accounting and resting (R69 to R73) -/

/-- The leave deadline of a close list: its head plus REST-WINDOW; an empty list holds none (R71). -/
def leaveOf (windowHours : Nat) : List Clock → Option Clock
  | [] => none
  | t :: _ => some (addHour t windowHours)

/-- A record with one accounted close more (R69, R70, R71). -/
def StepRec.addClose (now : Clock) (c : StepSettings) (r : StepRec) : StepRec :=
  let list := (if 8 ≤ r.closeList.length then r.closeList.drop 1 else r.closeList) ++ [now]
  { r with
    closeList := list
    leave := if r.closeList = [] ∨ 8 ≤ r.closeList.length then leaveOf c.restWindow list else r.leave
    closeCount := countUp r.closeCount }

/-- A record with the head of its close list gone (R71). -/
def StepRec.leaveHead (c : StepSettings) (r : StepRec) : StepRec :=
  { r with closeList := r.closeList.drop 1, leave := leaveOf c.restWindow (r.closeList.drop 1) }

/-- Append REST-START or REST-END when the resting condition differs from what it was (R72). -/
def noteRest (k : StepNo) (was : Bool) (s : State) : State :=
  if s.resting k = was then s
  else
    note (if s.resting k then .restStart else .restEnd) .info (some k) none
      (some ((s.stp k).closeList.length : Int)) (some ((s.cfg k).closeLimit : Int)) s

/-- Write a record that carries one accounted close more, with the resting events. -/
def accountClose (k : StepNo) (r : StepRec) (s : State) : State :=
  noteRest k (s.resting k) (putStep k (r.addClose s.clock (s.cfg k)) s)

/-! ### Where a step goes -/

/-- The state of an opened step by its discharge deadline: COOLING while it is present, else READY. -/
def StepRec.openState (r : StepRec) : StepState := if r.discharge = none then .ready else .cooling

/-- The state of an opened step where the rule asks whether the discharge deadline has passed (R27, R31). -/
def StepRec.openStateAt (now : Clock) (r : StepRec) : StepState :=
  match r.discharge with
  | none => .ready
  | some d => if passed now d then .ready else .cooling

/-- The rest position of a state (R30). -/
def StepState.restPos : StepState → Option Sensed
  | .offline => some .opened
  | .cooling => some .opened
  | .ready => some .opened
  | .closed => some .closed
  | .closing => none
  | .opening => none
  | .locked => none

/-- The rest position of a record, absent before the Step Table is built. -/
def StepRec.restPos (r : StepRec) : Option Sensed := r.state.bind StepState.restPos

/-- At the end of an operation on a step away from its rest position the watch starts (R30). -/
def StepRec.watchAtEnd (now : Clock) (c : StepSettings) (r : StepRec) : StepRec :=
  match r.restPos with
  | none => r
  | some p => if r.sensed = some p then r else { r with watch := some (addMs now c.operateTimeout) }

/-- Sensed position from the two filtered values (Table 2-2); absent until both are established (R19). -/
def formSensed (posA posB : Option Bool) : Option Sensed :=
  match posA, posB with
  | some true, some false => some .closed
  | some false, some true => some .opened
  | some false, some false => some .transit
  | some true, some true => some .invalid
  | none, _ => none
  | some _, none => none

/-- The record after a change of its sensed position, before any state follows (R20, R66, R74, R137). -/
def StepRec.moved (now : Clock) (c : StepSettings) (p : Sensed) (r : StepRec) : StepRec :=
  { r with
    sensed := some p
    openSince := if p = .opened then some now else none
    closedSince := if p = .closed then some now else none
    discharge := if p = .opened then some (addSec now c.discharge) else r.discharge
    minClosed := if p = .closed then some (addSec now c.minClosed) else none
    inrush := if p = .closed then some (addMs now c.inrushHold) else none }

/-- The watch after a change of the sensed position from `old` to `p` in a state with rest position `rest`
(R30). -/
def watchAfter (now : Clock) (c : StepSettings) (rest old : Option Sensed) (p : Sensed) (w : Option Clock) :
    Option Clock :=
  match rest with
  | none => w
  | some q => if p = q then none else if old = some q then some (addMs now c.operateTimeout) else w

end Sys2Proof.Machine
end

