-- ==== Sys2Proof/Machine/Channel.lean ====
section
/-! DEFINITION. How operations start, end and are requested: the Switching Channel with the reports it makes to the Step Manager, the Voltage Controller, the Harmonic Supervisor and the Resonance Learner (chapter 3, R23 to R29, R93, R94, R106, R114, R124, R125). -/

namespace Sys2Proof.Machine

/-! ### The waiting list -/

/-- Classes in their order, highest first (R42). -/
def OpClass.rank : OpClass → Nat
  | .protection => 0
  | .directed => 1
  | .control => 2

/-- Place a record after every record of its class or a higher one (R42). -/
def placeRec (o : OpRec) (l : List OpRec) : List OpRec :=
  l.takeWhile (fun x => x.cls.rank ≤ o.cls.rank) ++ o :: l.dropWhile fun x => x.cls.rank ≤ o.cls.rank

/-- Write the waiting list. -/
def setWaiting (l : List OpRec) (s : State) : State := { s with sc := { s.sc with waiting := l } }

/-- Put a changed record where the old one stands. -/
def replaceRec (old new : OpRec) (l : List OpRec) : List OpRec := l.map fun x => if x = old then new else x

/-- Add a block to a record's joined requesters, a set (R41). -/
def addJoined (r : Requester) (l : List Requester) : List Requester := if l.contains r then l else l ++ [r]

/-- The blocks told of a record's start and outcome (R41). -/
def OpRec.told (o : OpRec) : List Requester := o.requester :: o.joined.filter (· ≠ o.requester)

/-- The waiting record that names a step. -/
def waitingOn (k : StepNo) (s : State) : Option OpRec := s.sc.waiting.find? fun o => mem o.steps k

/-! ### Telling the requesters of an outcome -/

/-- What the Voltage Controller does with the end of a record (R93, R94). -/
def tellVc (id : Byte) (steps : Comb) (out : OpOutcome) (s : State) : State :=
  match s.vc.state with
  | .awaiting smp =>
    if smp.id ≠ id then s
    else if out ≠ .success then { s with vc := { s.vc with state := .watch } }
    else if steps = bit smp.step then
      { s with vc := { s.vc with state := .settling smp (addSec s.clock s.settings.control.settle) } }
    else
      note .learnDiscarded .info (some smp.step) (some smp.id) (some LearnReason.stepSet.code) none
        { s with vc := { s.vc with state := .watch } }
  | .watch | .raiseTiming _ | .lowerTiming _ | .settling _ _ | .suspended => s

/-- The removal of a filter after the end of the record of an id (R114). An OPEN is never ABORTED. -/
def Removal.after (id : Byte) (out : OpOutcome) (r : Removal) : Removal :=
  if r = .inHand id then
    match out with
    | .success => .complete
    | .dropped => .complete
    | .cancelled => .complete
    | .failed => .stopped
    | .aborted => r
  else r

/-- What the Harmonic Supervisor does with the end of a record (R114). -/
def tellHs (id : Byte) (out : OpOutcome) (s : State) : State :=
  { s with hs := { s.hs with filters := s.hs.filters.map fun r => { r with removal := r.removal.after id out } } }

/-- Tell one block. The outcomes of DIRECTED records reach the host by their records, and UP, YP and RL record
nothing of an outcome (R41, R131, R143, R155). -/
def tellOne (o : OpRec) (out : OpOutcome) (s : State) (r : Requester) : State :=
  match r with
  | .vc => tellVc o.id o.steps out s
  | .hs => tellHs o.id out s
  | .li => s
  | .up => s
  | .yp => s
  | .rl => s

/-- Tell the requester and every joined requester of an outcome (R41). -/
def tell (o : OpRec) (out : OpOutcome) (s : State) : State := o.told.foldl (tellOne o out) s

/-! ### Removing waiting records -/

/-- Append OP-CANCELLED or OP-DROPPED for a record with a reason (Table 3-6). -/
def noteRemoved (kind : EventKind) (o : OpRec) (reason : Nat) (s : State) : State :=
  note kind .info (single o.steps) (some o.id) (some (o.steps.toNat : Int)) (some (reason : Int)) s

/-- Remove a waiting record as CANCELLED (R45, R47, R48, R49). -/
def cancelRec (reason : CancelReason) (o : OpRec) (s : State) : State :=
  s |> setWaiting (s.sc.waiting.erase o) |> tell o .cancelled |> noteRemoved .opCancelled o reason.code

/-- Remove a waiting record as DROPPED (R51, R52). OP-DROPPED names the steps the record waited with, also for an OPEN
whose start check has removed every one of them, where the rule does not say which set is meant (DESIGN CHOICE,
log entry 32). -/
def dropRec (reason : DropReason) (o : OpRec) (s : State) : State :=
  s |> setWaiting (s.sc.waiting.erase o) |> tell o .dropped |> noteRemoved .opDropped o reason.code

/-! ### The learner and the controller at a start and an end -/

/-- The Resonance Learner discards a window pending at a start (R124). -/
def windowAtStart (s : State) : State :=
  match s.rl.window with
  | .none => s
  | .started w => dropWindow w .operation s
  | .settling w _ _ => dropWindow w .operation s
  | .afterWait w _ => dropWindow w .operation s

/-- The Resonance Learner opens a window at the start of a CONTROL or DIRECTED operation (R124). -/
def openWindow (o : OpRec) (s : State) : State :=
  if o.cls = .protection then s
  else
    match stepsOf o.steps, s.mu.spectrum with
    | k :: _, some f => { s with rl := { s.rl with window := .started ⟨o.id, o.kind, k, f.vh⟩ } }
    | k :: _, none => note .resDiscarded .info (some k) (some o.id) (some ResReason.noSpectrum.code) none s
    | [], _ => s

/-- The Voltage Controller at a start report (R93, R96). -/
def startAtVc (id : Byte) (s : State) : State :=
  match s.vc.state with
  | .awaiting smp =>
    if smp.id = id then { s with vc := { s.vc with state := .awaiting { smp with vBefore := s.vc.vc } } } else s
  | .settling _ _ => discardSample .operation s
  | .watch | .raiseTiming _ | .lowerTiming _ | .suspended => s

/-- The Resonance Learner at the end report of an operation that had started (R125). -/
def endAtLearner (id : Byte) (ok : Bool) (s : State) : State :=
  match s.rl.window with
  | .started w =>
    if w.id ≠ id then s
    else if ok then
      { s with rl := { s.rl with
          window := .settling w s.energized (addSec s.clock s.settings.control.settle) } }
    else { s with rl := { s.rl with window := .none } }
  | .none | .settling _ _ _ | .afterWait _ _ => s

/-! ### Starting -/

/-- A step record at the start of an operation on it (R23, R24). -/
def StepRec.started (kind : OpKind) (r : StepRec) : StepRec :=
  match kind with
  | .close => { r with
      state := if r.state = some .ready then some .closing else r.state, commanded := .closed, watch := none }
  | .open_ => { r with
      state := if r.state = some .closed ∨ r.state = some .closing then some .opening else r.state
      commanded := .opened, watch := none }

/-- The Step Manager at the start of an operation on one step (R23). -/
def startAtStep (kind : OpKind) (s : State) (k : StepNo) : State :=
  s |> putStep k ((s.stp k).started kind) |> reportStep k

/-- The target of a kind (R55). -/
def OpKind.target : OpKind → Sensed
  | .close => .closed
  | .open_ => .opened

/-- The coil outputs a start asserts on one step (R53). -/
def assertCoil (kind : OpKind) (now : Clock) (c : StepSettings) (o : Coils) : Coils :=
  match kind with
  | .close => { o with close := some (addMs now c.closePulse) }
  | .open_ => { o with open_ := some (addMs now c.openPulse) }

/-- Change the coil outputs of the steps of a combination. -/
def mapCoils (steps : Comb) (f : StepNo → Coils → Coils) (s : State) : State :=
  { s with sc := { s.sc with coils := Vector.ofFn fun k => if mem steps k then f k s.sc.coils[k] else s.sc.coils[k] } }

/-- The greatest OPERATE-TIMEOUT among the steps of a combination (R53). -/
def greatestTimeout (steps : Comb) (s : State) : Nat :=
  (stepsOf steps).foldl (fun m k => max m (s.cfg k).operateTimeout) 0

/-- The targeted steps whose sensed position equals the target (R53). -/
def arrivedAt (o : OpRec) (s : State) : Comb :=
  combOf fun k => mem o.steps k && (s.stp k).sensed = some o.kind.target

/-- Append OP-START (Table 3-6). -/
def noteStart (o : OpRec) (s : State) : State :=
  note .opStart .info (single o.steps) (some o.id) (some (o.steps.toNat : Int))
    (some ((o.kind.code * 16 + o.cause.code : Nat) : Int)) s

/-- Put a record into the ACTIVE slot with its times, its start positions and its outputs (R53). -/
def occupySlot (o : OpRec) (s : State) : State :=
  mapCoils o.steps (fun k => assertCoil o.kind s.clock (s.cfg k))
    { s with sc := { s.sc with
        active := some
          { op := o, start := s.clock, startPos := Vector.ofFn fun k => (s.stp k).sensed, arrived := 0
            timeout := addMs s.clock (greatestTimeout o.steps s) } } }

/-- Form the arrived set of the ACTIVE record as its start leaves it (R53). -/
def formArrived (o : OpRec) (s : State) : State :=
  match s.sc.active with
  | none => s
  | some a => { s with sc := { s.sc with active := some { a with arrived := arrivedAt o s } } }

/-- A record starts (R53). The end of an operation complete at its start follows in `serve`. The records of its reports
join in the order steps by number, RES-DISCARDED, LEARN-DISCARDED, and before OP-START: R53 makes all of them one event
and does not order the records (DESIGN CHOICE, log entry 11). -/
def startOp (o : OpRec) (s : State) : State :=
  let t := (stepsOf o.steps).foldl (startAtStep o.kind) (occupySlot o s)
  t |> windowAtStart |> openWindow o |> startAtVc o.id |> noteStart o |> formArrived o

/-! ### Ending -/

/-- Release the outputs of the steps, empty the slot and set the rest deadline (R57). -/
def emptySlot (steps : Comb) (s : State) : State :=
  let t := mapCoils steps (fun _ _ => ⟨none, none⟩) s
  { t with sc := { t.sc with active := none, rest := some (addSec s.clock s.settings.yard.restInterval) } }

/-- A step record at the success of a CLOSE, before its accounting (R25, R29). -/
def StepRec.closedBy (id : Byte) (r : StepRec) : StepRec :=
  { r with state := if r.state = some .closing then some .closed else r.state, lastOp := some id }

/-- A step record at the success of an OPEN (R27, R29, R76). -/
def StepRec.openedBy (now : Clock) (id : Byte) (r : StepRec) : StepRec :=
  { r with
    state := if r.state = some .opening then some (r.openStateAt now) else r.state
    openCount := countUp r.openCount
    lastOp := some id }

/-- The freshness deadline set by a close success (R106). -/
def setFreshness (s : State) : State :=
  { s with hs := { s.hs with freshness := some (addSec s.clock s.settings.control.settle) } }

/-- The Step Manager at the success of a CLOSE (R25, R29), with the report to the freshness deadline (R106). -/
def closeSuccess (id : Byte) (k : StepNo) (s : State) : State :=
  s |> accountClose k (((s.stp k).closedBy id).watchAtEnd s.clock (s.cfg k)) |> setFreshness |> reportStep k

/-- The Step Manager at the success of an OPEN for one step (R27, R29, R76). -/
def openSuccess (id : Byte) (k : StepNo) (s : State) : State :=
  s |> putStep k (((s.stp k).openedBy s.clock id).watchAtEnd s.clock (s.cfg k)) |> reportStep k

/-- The Step Manager at a step's success. -/
def stepSuccess (kind : OpKind) (id : Byte) (k : StepNo) (s : State) : State :=
  match kind with
  | .close => closeSuccess id k s
  | .open_ => openSuccess id k s

/-- The end of the ACTIVE record by success (R57). The steps are accounted in step-number order, which R57 leaves open
(DESIGN CHOICE, log entry 11). -/
def finishSuccess (a : ActiveOp) (s : State) : State :=
  let o := a.op
  let t := note .opDone .info (single o.steps) (some o.id) (some (o.steps.toNat : Int)) none (emptySlot o.steps s)
  (stepsOf o.steps).foldl (fun v k => stepSuccess o.kind o.id k v) t |> tell o .success |> endAtLearner o.id true

/-- Dispositions of a failed CLOSE (R58). -/
inductive Disposition | resume | lock | follow
deriving DecidableEq, Repr

/-- The disposition of R58, and whether a retry is scheduled, before a lock is considered. -/
def disposition (c : StepSettings) (attempt : Nat) (sensed : Option Sensed) : Disposition × Bool :=
  match c.closeFailMode with
  | .lock => (.lock, false)
  | .retry => if sensed = some .opened ∧ attempt < 1 + c.retryCount then (.resume, true) else (.lock, false)
  | .report => (.follow, false)

/-- A step back in COOLING or READY after a failed close (R26). -/
def closeFellBack (k : StepNo) (s : State) : State :=
  let r := s.stp k
  s |> putStep k ({ r with state := some r.openState, commanded := .opened }.watchAtEnd s.clock (s.cfg k))
    |> reportStep k

/-- The Step Manager applies a disposition to a step in CLOSING (R26). -/
def applyDisposition (d : Disposition) (k : StepNo) (s : State) : State :=
  let r := s.stp k
  match d with
  | .resume => closeFellBack k s
  | .lock => lockStep .closeFail k s
  | .follow =>
    match r.sensed with
    | some .opened => closeFellBack k s
    | some .closed =>
      s |> accountClose k ({ r with state := some .closed }.watchAtEnd s.clock (s.cfg k)) |> reportStep k
    | some .transit => lockStep .positionInvalid k s
    | some .invalid => lockStep .positionInvalid k s
    | none => s

/-- Hold a pending retry and append OP-RETRY (R59). -/
def scheduleRetry (o : OpRec) (k : StepNo) (s : State) : State :=
  let r : Retry :=
    ⟨o.cls, o.requester, o.attempt + 1, o.id, some (addSec s.clock (s.cfg k).retryInterval)⟩
  note .opRetry .info (some k) (some o.id) (some ((o.attempt + 1 : Nat) : Int)) none
    { s with sc := { s.sc with retries := s.sc.retries.set k (some r) } }

/-- The Step Manager and the retry at the failure of a CLOSE (R26, R29, R58). -/
def closeFailure (o : OpRec) (k : StepNo) (s : State) : State :=
  match (s.stp k).state with
  | some .locked => lockStep .closeFail k s
  | some .closing =>
    let d := disposition (s.cfg k) o.attempt (s.stp k).sensed
    let t := applyDisposition d.1 k s
    if d.2 then scheduleRetry o k t else t
  | some .offline | some .cooling | some .ready | some .closed | some .opening | none => s

/-- The Step Manager at a step's failure (R26, R28). -/
def stepFailure (o : OpRec) (k : StepNo) (s : State) : State :=
  match o.kind with
  | .close => closeFailure o k s
  | .open_ => lockStep .openFail k s

/-- The failure kind of a step outside the arrived set (R56). -/
def failureKind (start sensed : Option Sensed) : FailureKind :=
  if sensed = start then .noMotion
  else if sensed = some .transit then .stuckTransit
  else if sensed = some .invalid then .invalid
  else .wrongEnd

/-- Class of OP-FAIL (R57). -/
def OpKind.failClass : OpKind → EvClass
  | .close => .alarm
  | .open_ => .trip

/-- The targeted steps outside the arrived set. -/
def ActiveOp.missing (a : ActiveOp) : Comb := without a.op.steps a.arrived

/-- Append OP-FAIL with the failed steps and the kind of the first, and set BREAKER-SEEN (R57). -/
def noteFail (a : ActiveOp) (s : State) : State :=
  let first := (stepsOf a.missing).head?
  setBreakerSeen <|
    note .opFail a.op.kind.failClass first (some a.op.id) (some (a.missing.toNat : Int))
      (first.map fun k => ((failureKind a.startPos[k] (s.stp k).sensed).code : Int)) s

/-- One step's outcome at a timeout: success in the arrived set, failure outside it (R56). -/
def stepOutcome (a : ActiveOp) (s : State) (k : StepNo) : State :=
  if mem a.arrived k then stepSuccess a.op.kind a.op.id k s else stepFailure a.op k s

/-- The end of the ACTIVE record at its timeout with a step not arrived (R56, R57). The steps take their outcomes in
step-number order, which R57 leaves open (DESIGN CHOICE, log entry 11). -/
def finishFailure (a : ActiveOp) (s : State) : State :=
  let o := a.op
  let t := noteFail a (emptySlot o.steps s)
  (stepsOf o.steps).foldl (stepOutcome a) t |> tell o .failed |> endAtLearner o.id false

/-! ### Start attempts -/

/-- The start check of a CLOSE (R51, Table 3-3): the reason of the first test that fails. -/
def closeCheck (o : OpRec) (k : StepNo) (s : State) : Option DropReason :=
  match closeBar o.cls k s with
  | some reason => some reason
  | none =>
    if o.cls ≠ .control then none
    else
      match (s.entry (s.energized ||| bit k)).state with
      | .vetoed => some .vetoed
      | .pinned => some .pinned
      | .clear => none
      | .suspect => none

/-- The steps an OPEN starts with (R52). -/
def openKept (o : OpRec) (s : State) : Comb :=
  combOf fun k => mem o.steps k && mem s.energized k && (o.cls ≠ .control || eligibleToOpen k s)

/-- The reason of an OPEN dropped at its start check (R52). -/
def OpClass.openDrop : OpClass → DropReason
  | .protection => .notEnergized
  | .directed => .notEnergized
  | .control => .notEligible

/-- One move of the channel: the end of an ACTIVE record that is complete, or one start attempt (R50, R55).
`none` when there is nothing to do. -/
def channelMove (s : State) : Option State :=
  match s.sc.active with
  | some a => if a.missing = 0 then some (finishSuccess a s) else none
  | none =>
    if !s.sm.built then none
    else
      match s.sc.waiting with
      | [] => none
      | o :: rest =>
        match o.kind with
        | .close =>
          if s.sc.rest ≠ none then none
          else
            match (stepsOf o.steps).head? with
            | none => some (dropRec .notReady o s)
            | some k =>
              match closeCheck o k s with
              | some reason => some (dropRec reason o s)
              | none => some (startOp o (setWaiting rest s))
        | .open_ =>
          if openKept o s = 0 then some (dropRec o.cls.openDrop o s)
          else some (startOp { o with steps := openKept o s } (setWaiting rest s))

/-- Moves of the channel until there is nothing to do, at most `n`. -/
def moveChannel : Nat → State → State
  | 0, s => s
  | n + 1, s =>
    match channelMove s with
    | none => s
    | some t => moveChannel n t

/-- Start attempts, drops and immediate successes as far as they go in one event (R50, R53). Each move takes a
waiting record or ends the ACTIVE one, so twice the waiting records and two more moves are enough. -/
def serve (s : State) : State := moveChannel (2 * s.sc.waiting.length + 2) s

/-! ### Requests -/

/-- A request as it arrives (section 3.2). -/
structure OpReq where
  kind : OpKind
  steps : Comb
  cls : OpClass
  cause : Cause
  requester : Requester
  attempt : Nat := 1
deriving DecidableEq, Repr

/-- A new record of a request, with the next id (R41). -/
def OpReq.toRec (q : OpReq) (s : State) : OpRec :=
  ⟨s.sc.nextId, q.kind, q.steps, q.cls, q.cause, q.requester, [], q.attempt, s.clock⟩

/-- Advance the operation-id counter (R41). -/
def bumpId (s : State) : State := { s with sc := { s.sc with nextId := s.sc.nextId + 1 } }

/-- Create a WAITING record and place it (R42, R44, R45). -/
def enqueue (q : OpReq) (s : State) : Answer × State :=
  (.queued s.sc.nextId, bumpId (setWaiting (placeRec (q.toRec s) s.sc.waiting) s))

/-- The newest record of a class: latest in queued time, and among equal times the one placed last (R48). -/
def newestOf (now : Clock) (c : OpClass) (l : List OpRec) : Option OpRec :=
  l.foldl (fun best o =>
    if o.cls ≠ c then best
    else match best with
      | none => some o
      | some b => if (now - o.queued).toNat ≤ (now - b.queued).toNat then some o else best) none

/-- Merge a request into a waiting record; a higher class of the request raises the record, with its cause, and
places it anew (R44, R45). -/
def mergeInto (o : OpRec) (q : OpReq) (s : State) : Answer × State :=
  let o' := { o with joined := addJoined q.requester o.joined }
  (.merged o.id,
    if q.cls.rank < o.cls.rank then
      setWaiting (placeRec { o' with cls := q.cls, cause := q.cause } (s.sc.waiting.erase o)) s
    else setWaiting (replaceRec o o' s.sc.waiting) s)

/-- Create a record where there is room, or make room or refuse as R48 gives. -/
def admitRec (q : OpReq) (s : State) : Answer × State :=
  if s.sc.waiting.length < 4 then enqueue q s
  else if q.cls ≠ .protection then (.full, s)
  else
    match (newestOf s.clock .control s.sc.waiting).or (newestOf s.clock .directed s.sc.waiting) with
    | some v => enqueue q (cancelRec .displaced v s)
    | none =>
      match newestOf s.clock .protection s.sc.waiting with
      | some o =>
        (.merged o.id,
          setWaiting (replaceRec o { o with
            steps := o.steps ||| q.steps, joined := addJoined q.requester o.joined } s.sc.waiting) s)
      | none => (.full, s)

/-- A CLOSE request for step k (R44). -/
def resolveClose (q : OpReq) (k : StepNo) (s : State) : Answer × State :=
  if s.activeOn k then (.conflict, s)
  else
    match waitingOn k s with
    | none => admitRec q s
    | some o =>
      match o.kind with
      | .close => mergeInto o q s
      | .open_ => (.conflict, s)

/-- The Resonance Learner at a take-over: the start of the OPEN and the abort of the CLOSE arrive together. When
the window is that of the CLOSE, the order decides whether RES-DISCARDED is appended (log entry 6); the window is
forgotten in both. -/
def windowAtTakeOver (closeId : Byte) (s : State) : State :=
  match s.rl.window with
  | .started w =>
    if w.id = closeId then
      let t := { s with rl := { s.rl with window := .none }, fresh := s.fresh + 1 }
      { t with li := if Config.takeOverStartFirst s.fresh then (dropWindow w .operation t).li else t.li }
    else dropWindow w .operation s
  | .none | .settling _ _ _ | .afterWait _ _ => windowAtStart s

/-- The ACTIVE CLOSE of step k ends ABORTED and its output is released (R46, items 1 and 2). -/
def abortActive (a : ActiveOp) (k : StepNo) (s : State) : State :=
  s |> mapCoils (bit k) (fun _ c => { c with close := none })
    |> tell a.op .aborted
    |> note .opAborted .alarm (some k) (some a.op.id) none none

/-- The OPEN of a take-over is placed into the slot and starts (R46, items 3 and 4); `closeId` is the id of the
aborted CLOSE. The records of the start join in the order of `startOp` (DESIGN CHOICE, log entry 11). -/
def startTakeOver (closeId : Byte) (o : OpRec) (k : StepNo) (s : State) : State :=
  startAtStep .open_ (occupySlot o (bumpId s)) k
    |> windowAtTakeOver closeId |> startAtVc o.id |> noteStart o |> formArrived o

/-- The trip-free take-over of step k by a PROTECTION OPEN (R24, R46); the id is that of the new record. -/
def takeOver (a : ActiveOp) (k : StepNo) (cause : Cause) (requester : Requester) (s : State) : Byte × State :=
  let t := abortActive a k s
  let o := OpReq.toRec ⟨.open_, bit k, .protection, cause, requester, 1⟩ t
  (o.id, startTakeOver a.op.id o k t)

/-- An OPEN request for step k (R45). -/
def resolveOpen (q : OpReq) (k : StepNo) (s : State) : Answer × State :=
  match s.sc.active with
  | some a =>
    if mem a.op.steps k then
      match a.op.kind with
      | .open_ => (.absorbed a.op.id, s)
      | .close =>
        if q.cls = .protection then
          let t := takeOver a k q.cause q.requester s
          (.takenOver t.1, t.2)
        else (.conflict, s)
    else resolveOpenWaiting q k s
  | none => resolveOpenWaiting q k s
where
  /-- The cases of R45 in which the ACTIVE record does not carry the step. -/
  resolveOpenWaiting (q : OpReq) (k : StepNo) (s : State) : Answer × State :=
    match waitingOn k s with
    | none => admitRec q s
    | some o =>
      match o.kind with
      | .open_ => mergeInto o q s
      | .close => admitRec q (cancelRec .superseded o s)

/-- A waiting record loses the steps of a group (R47, item 4). The record reported for an emptied OPEN is the
record as it stood before it lost its steps (log entry 32). -/
def stripRec (g : Comb) (s : State) (o : OpRec) : State :=
  if o.steps &&& g = 0 then s
  else
    match o.kind with
    | .close => cancelRec .superseded o s
    | .open_ =>
      if without o.steps g = 0 then cancelRec .merged o s
      else setWaiting (replaceRec o { o with steps := without o.steps g } s.sc.waiting) s

/-- Every waiting record loses the steps of a group (R47, item 4), in the order of the waiting list, which R47 leaves
open (DESIGN CHOICE, log entry 11). -/
def stripWaiting (g : Comb) (s : State) : State := s.sc.waiting.foldl (stripRec g) s

/-- The answer to a group OPEN: ABSORBED when both ids are absent (R47). -/
structure GroupAnswer where
  takeOver : Option Byte
  record : Option Byte
deriving DecidableEq, Repr

/-- A group OPEN (R47). -/
def resolveGroup (q : OpReq) (s : State) : GroupAnswer × State :=
  match s.sc.active with
  | some a =>
    match a.op.kind with
    | .open_ => finishGroup q (without q.steps a.op.steps) none s
    | .close =>
      match (stepsOf a.op.steps).head? with
      | none => finishGroup q q.steps none s
      | some k =>
        let t := takeOver a k q.cause q.requester s
        finishGroup q (without q.steps (bit k)) (some t.1) t.2
  | none => finishGroup q q.steps none s
where
  /-- Items 4 and 5 of R47, on the steps that remain. -/
  finishGroup (q : OpReq) (g : Comb) (took : Option Byte) (s : State) : GroupAnswer × State :=
    if g = 0 then (⟨took, none⟩, s)
    else
      let t := admitRec { q with steps := g } (stripWaiting g s)
      (⟨took, t.1.id⟩, t.2)

/-- A request cancels the pending retries of the steps it names (R43, R59), in step-number order, which R59 leaves
open (DESIGN CHOICE, log entry 11). -/
def cancelRetries (steps : Comb) (s : State) : State :=
  (stepsOf steps).foldl (fun t k => cancelRetry .superseded k t) s

/-- A request for one step arrives and is resolved (R43 to R45). -/
def request (q : OpReq) (k : StepNo) (s : State) : Answer × State :=
  match q.kind with
  | .close => resolveClose q k (cancelRetries q.steps s)
  | .open_ => resolveOpen q k (cancelRetries q.steps s)

/-- A group OPEN arrives and is resolved (R43, R47). -/
def requestGroup (q : OpReq) (s : State) : GroupAnswer × State := resolveGroup q (cancelRetries q.steps s)

/-- The request of a CONTROL or DIRECTED block for one step. -/
def oneStep (kind : OpKind) (k : StepNo) (cls : OpClass) (cause : Cause) (requester : Requester) : OpReq :=
  ⟨kind, bit k, cls, cause, requester, 1⟩

/-- The group OPEN of the energized steps that are not LOCKED (R116, R156). -/
def openAllReq (cause : Cause) (requester : Requester) (s : State) : OpReq :=
  ⟨.open_, combOf fun k => mem s.energized k && (s.stp k).state ≠ some .locked, .protection, cause, requester, 1⟩

/-- OP-DROPPED for a retry whose request is refused (R60). -/
def noteRetryDropped (reason : DropReason) (r : Retry) (k : StepNo) (s : State) : State :=
  note .opDropped .info (some k) (some r.failedId) (some ((bit k).toNat : Int)) (some (reason.code : Int)) s

/-- A pending retry ends when its request is resolved; a refusal is reported with the failed id (R60). -/
def endRetry (r : Retry) (k : StepNo) (answer : Answer) (s : State) : State :=
  let u := { s with sc := { s.sc with retries := s.sc.retries.set k none } }
  match answer with
  | .conflict => noteRetryDropped .conflict r k u
  | .full => noteRetryDropped .full r k u
  | .queued _ => u
  | .merged _ => u
  | .takenOver _ => u
  | .absorbed _ => u

/-- A pending retry becomes a CLOSE request with cause RETRY and the carried class, requester and attempt number
(R60). -/
def retryRequest (r : Retry) (k : StepNo) (s : State) : State :=
  let t := resolveClose ⟨.close, bit k, r.cls, .retry, r.requester, r.attempt⟩ k s
  serve (endRetry r k t.1 t.2)

/-- A retry that waits without a deadline becomes a request at its step's move to READY (R60). -/
def retryAtReady (k : StepNo) (s : State) : State :=
  match s.sc.retries[k] with
  | none => s
  | some r => if r.deadline = none then retryRequest r k s else s

/-- A waiting record is cancelled when it is a DIRECTED CLOSE (R49). -/
def cancelDirected (s : State) (o : OpRec) : State :=
  if o.kind = .close ∧ o.cls = .directed then cancelRec .hostSilent o s else s

/-- The pending retry of a step is cancelled when it is DIRECTED (R49). -/
def cancelDirectedRetry (s : State) (k : StepNo) : State :=
  match s.sc.retries[k] with
  | none => s
  | some r => if r.cls = .directed then cancelRetry .hostSilent k s else s

/-- Cancel directed closes: every WAITING DIRECTED CLOSE and every DIRECTED pending retry (R49), then a start
attempt at the head that may have changed (R50). The records go first, in the order of the waiting list, and then the
retries, in step-number order: R49 gives no order (DESIGN CHOICE, log entry 11). -/
def cancelDirectedCloses (s : State) : State :=
  serve (allSteps.foldl cancelDirectedRetry (s.sc.waiting.foldl cancelDirected s))

end Sys2Proof.Machine
end

