-- ==== Sys2Proof/Machine/HarmonicSupervisor.lean ====
section
/-! DEFINITION. The Harmonic Supervisor: levels, assertion, filter states, actions and the harmonic close block (R102 to R120). -/

namespace Sys2Proof.Machine

/-- Write the working fields of a filter. -/
def putFilt (f : FilterNo) (r : FilterRec) (s : State) : State :=
  { s with hs := { s.hs with filters := s.hs.filters.set f r } }

/-- The number of a filter in events: 1 to 8. -/
def filterNumber (f : FilterNo) : Int := ((f.val + 1 : Nat) : Int)

/-! ### Level and assertion (R103 to R105) -/

/-- The levels of a frame's source (R103). -/
def SpectrumFrame.levels (g : SpectrumFrame) : Source → Vector Nat 24
  | .voltage => g.vh
  | .yardCurrent => g.qh

/-- The chosen levels in order (R103): order h is entry h - 2. -/
def chosenLevels (orders : BitVec 24) (levels : Vector Nat 24) : List Nat :=
  (List.range 24).filterMap fun i => if orders.getLsbD i then levels[i]? else none

/-- The combined level before its clamp (R103). -/
def rawLevel (m : Measure) (l : List Nat) : Nat :=
  match m with
  | .rss => isqrt (l.map fun x => x * x).sum
  | .sum => l.sum

/-- The combined level of a filter on a frame before its clamp. -/
def filterRaw (c : FilterSettings) (g : SpectrumFrame) : Nat := rawLevel c.measure (chosenLevels c.orders (g.levels c.source))

/-- The qualifier on values as they stand (R104). -/
def qualifies (c : FilterSettings) (g : SpectrumFrame) (s : State) : Bool :=
  match c.qualifier with
  | .always => true
  | .anyEnergized => s.energized ≠ 0
  | .contains => without c.qualifierSteps s.energized = 0
  | .voltageHigh => s.vc.band = .high
  | .fresh =>
    match s.hs.freshness with
    | none => false
    | some d => !passed g.time d

/-- Whether a filter asserts at a level (R105). -/
def asserts (c : FilterSettings) (level : Nat) (qualified : Bool) : Bool :=
  xor (decide (c.threshold ≤ level)) c.invert && qualified

/-! ### The harmonic close block (R112) -/

/-- The action is in force: ACTIVE, DROPPING, HELD, or PICKING-UP with repeat yes (R112, R117, R120). -/
def FilterRec.inForce (r : FilterRec) : Bool :=
  match r.state with
  | .quiet => false
  | .pickingUp _ => r.rep
  | .active => true
  | .dropping _ => true
  | .held => true

/-- Whether an action blocks closing (R111, R112). -/
def Action.blocks : Action → Bool
  | .alarm => false
  | .blockClose => true
  | .removeLast => true
  | .tripAll => true

/-- The filter contributes to the harmonic close block (R112). -/
def blocking (s : State) (f : FilterNo) : Bool :=
  s.isEnabled f && (s.fcfg f).action.blocks && (s.filt f).inForce

/-- Re-form the harmonic close block at a change of filter f (R112). -/
def reformBlock (f : FilterNo) (s : State) : State :=
  let present := allFilters.any (blocking s)
  if present = s.hs.block then s
  else
    let t := { s with hs := { s.hs with block := present } }
    if present then note .harmBlockOn .info none none (some (filterNumber f)) none t
    else note .harmBlockOff .info none none none none t

/-! ### Entering ACTIVE (R110, R111, R113, R116) -/

/-- Class of FILTER-ACTIVE (R110). -/
def Action.cls : Action → EvClass
  | .alarm => .alarm
  | .blockClose => .alarm
  | .removeLast => .alarm
  | .tripAll => .trip

/-- The filter is ACTIVE with its removal: FILTER-ACTIVE, HARMONIC-SEEN, repeat cleared and the block re-formed
(R110). -/
def announceActive (f : FilterNo) (k : Option StepNo) (id : Option Byte) (removal : Removal) (s : State) : State :=
  let r := s.filt f
  putFilt f { r with state := .active, rep := false, removal := removal } s
    |> note .filterActive (s.fcfg f).action.cls k id (some (filterNumber f)) (r.level.map Int.ofNat)
    |> setHarmonicSeen
    |> reformBlock f

/-- The step REMOVE-LAST takes: the first CLOSED step from the tail of the Insertion List (R113). -/
def lastClosed (s : State) : Option StepNo := s.sm.insertion.reverse.find? fun k => (s.stp k).state = some .closed

/-- The removal of a filter whose request was answered (R113). -/
def removalOf : Option Byte → Removal
  | some id => .inHand id
  | none => .stopped

/-- A filter becomes ACTIVE and takes its action (R110). The answer of a request is named by FILTER-ACTIVE, and the
records of its resolving join after. Start attempts are left to the caller. -/
def activate (f : FilterNo) (s : State) : State :=
  match (s.fcfg f).action with
  | .alarm => announceActive f none none .none s
  | .blockClose => announceActive f none none .none s
  | .removeLast =>
    match lastClosed s with
    | none => announceActive f none none .stopped s
    | some k =>
      let q := oneStep .open_ k .protection .harmRemove .hs
      let id := (request q k s).1.id
      (request q k (announceActive f (some k) id (removalOf id) s)).2
  | .tripAll =>
    let t := announceActive f none none .none s
    (requestGroup (openAllReq .harmTrip .hs t) t).2

/-! ### Leaving (R107, R108, R109, R115) -/

/-- Append FILTER-CLEAR (Table 6-2). -/
def noteClear (f : FilterNo) (reason : ClearReason) (s : State) : State :=
  note .filterClear .info none none (some (filterNumber f)) (some (reason.code : Int)) s

/-- The result of the dropout expiry (R108). -/
def dropout (f : FilterNo) (s : State) : State :=
  let r := s.filt f
  match (s.fcfg f).response with
  | .selfReset =>
    putFilt f { r with state := .quiet, rep := false, removal := .none } s |> noteClear f .dropout |> reformBlock f
  | .latched =>
    putFilt f { r with state := .held, rep := false, removal := .none } s
      |> note .filterHeld .alarm none none (some (filterNumber f)) (r.level.map Int.ofNat)
      |> reformBlock f

/-- An asserting frame goes on to R115: the removal is COMPLETE on a REMOVE-LAST filter. -/
def mayRepeat (c : FilterSettings) (r : FilterRec) : Bool := c.action = .removeLast && r.removal = .complete

/-- A pickup starts on an asserting frame; with PICKUP 0 the filter becomes ACTIVE on the frame itself (R107,
R115). -/
def pickUp (f : FilterNo) (rep : Bool) (s : State) : State :=
  let r := s.filt f
  if (s.fcfg f).pickup = 0 then activate f (putFilt f { r with rep := rep, removal := .none } s)
  else
    putFilt f { r with state := .pickingUp (addSec s.clock (s.fcfg f).pickup), rep := rep, removal := .none } s
      |> reformBlock f

/-- The filter's state on a frame on which it asserts (R107, R108, R109, R115). -/
def onAssert (f : FilterNo) (s : State) : State :=
  let r := s.filt f
  match r.state with
  | .quiet => pickUp f false s
  | .pickingUp _ => s
  | .active => if mayRepeat (s.fcfg f) r then pickUp f true s else s
  | .dropping _ =>
    if mayRepeat (s.fcfg f) r then pickUp f true s else putFilt f { r with state := .active } s
  | .held => s

/-- The filter's state on a frame on which it does not assert (R107, R108, R109, R115). -/
def onSilent (f : FilterNo) (s : State) : State :=
  let r := s.filt f
  match r.state with
  | .quiet => s
  | .pickingUp _ =>
    let t := putFilt f { r with state := .quiet, rep := false, removal := .none } s
    if r.rep then t |> noteClear f .dropout |> reformBlock f else t
  | .active =>
    if (s.fcfg f).dropout = 0 then dropout f s
    else putFilt f { r with state := .dropping (addSec s.clock (s.fcfg f).dropout) } s
  | .dropping _ => s
  | .held => s

/-- One enabled filter handles a Spectrum Frame (R103, R104, R105, R107, R108). -/
def filterOnFrame (g : SpectrumFrame) (s : State) (f : FilterNo) : State :=
  if !s.isEnabled f then s
  else
    let c := s.fcfg f
    let level := clampNat 0 20000 (filterRaw c g)
    let asserted := asserts c level (qualifies c g s)
    let t := setClampSeen (level ≠ filterRaw c g)
      (putFilt f { s.filt f with level := some level, asserted := some asserted } s)
    if asserted then onAssert f t else onSilent f t

/-- A Spectrum Frame arrives at the Harmonic Supervisor: every filter handles it, and the requests their actions
made are then attempted (R102, R113; log entry 12). The filters handle it in the order F1 to F8, which the chapter
leaves open (DESIGN CHOICE, log entry 37). -/
def frameAtHs (g : SpectrumFrame) (s : State) : State := serve (allFilters.foldl (filterOnFrame g) s)

/-! ### Deadlines and requests -/

/-- FILTER_PICKUP_EXPIRY (R107, R110). The start attempt of a request the expiry makes stands inside it, so where two
REMOVE-LAST filters expire in one millisecond on an idle channel the first OPEN starts, its step is OPENING, and the
second expiry passes it over and takes the next CLOSED step; on an occupied channel the second merges. R113 leaves open
which of the two happens (DESIGN CHOICE, log entry 41). -/
def filterPickupExpiry (f : FilterNo) (s : State) : State :=
  match (s.filt f).state with
  | .pickingUp d => if s.isEnabled f && passed s.clock d then serve (activate f s) else s
  | .quiet | .active | .dropping _ | .held => s

/-- FILTER_DROPOUT_EXPIRY (R108). -/
def filterDropoutExpiry (f : FilterNo) (s : State) : State :=
  match (s.filt f).state with
  | .dropping d => if s.isEnabled f && passed s.clock d then dropout f s else s
  | .quiet | .active | .pickingUp _ | .held => s

/-- FRESHNESS_EXPIRY (R106). -/
def freshnessExpiry (s : State) : State :=
  if due s.clock s.hs.freshness then { s with hs := { s.hs with freshness := none } } else s

/-- Return a filter to QUIET with latest values absent, with FILTER-CLEAR when its action was in force (R117,
R120). -/
def clearFilter (reason : ClearReason) (f : FilterNo) (s : State) : State :=
  let t := putFilt f .quiet s
  if (s.filt f).inForce then noteClear f reason t else t

/-- A filter leaves the filter-enable set: it is cleared and the block re-formed (R117). -/
def releaseFilter (reason : ClearReason) (f : FilterNo) (s : State) : State :=
  s |> clearFilter reason f |> reformBlock f

/-- Every filter returns to QUIET, and then the block, which no filter holds any more, is re-formed (R120). The
FILTER-CLEAR records join in the order F1 to F8, which R120 leaves open (DESIGN CHOICE, log entry 37). -/
def clearAllFilters (reason : ClearReason) (s : State) : State :=
  reformBlock 0 (allFilters.foldl (fun u f => clearFilter reason f u) s)

/-- The filter-enable set with the membership of one filter written. -/
def withEnabled (f : FilterNo) (on : Bool) (set : BitVec 8) : BitVec 8 :=
  if on then set ||| BitVec.twoPow 8 f.val else set &&& ~~~BitVec.twoPow 8 f.val

/-- Write one filter's membership of the filter-enable set. -/
def setEnabled (f : FilterNo) (on : Bool) (s : State) : State :=
  { s with settings := { s.settings with enabled := withEnabled f on s.settings.enabled } }

/-- A taken FILTER-ENABLE: each filter whose membership changes moves at once (R117). The filters move in the order
F1 to F8, the block re-formed after each, an order R117 leaves open (DESIGN CHOICE, log entry 37). -/
def takeFilterEnable (new : BitVec 8) (s : State) : State :=
  allFilters.foldl (fun t f =>
    if t.isEnabled f = new.getLsbD f.val then t
    else if new.getLsbD f.val then putFilt f .quiet (setEnabled f true t)
    else releaseFilter .disabled f (setEnabled f false t)) s

/-- A taken FILTER-CONFIG replaces every setting of the filter (R118). -/
def takeFilterConfig (f : FilterNo) (c : FilterSettings) (s : State) : State :=
  { s with settings := { s.settings with filters := s.settings.filters.set f c } }

/-- ACKNOWLEDGE of a filter: whether it is taken, and the state after (R109). FILTER-CLEAR joins before HARM-BLOCK-OFF, as
section 6.8 shows at a dropout; for an acknowledgement no rule orders them (DESIGN CHOICE, log entry 11). -/
def ackFilter (f : FilterNo) (s : State) : Bool × State :=
  if !s.isEnabled f then (true, s)
  else
    match (s.filt f).state with
    | .held =>
      (true, putFilt f { s.filt f with state := .quiet, rep := false, removal := .none } s
        |> noteClear f .acknowledge |> reformBlock f)
    | .active => (false, s)
    | .dropping _ => (false, s)
    | .quiet => (true, s)
    | .pickingUp _ => (true, s)

/-- FILTER_PICKUP_EXPIRY. -/
def execFilterPickupExpiry (f : FilterNo) (s : State) : Host.Outcome State Fault Refusal :=
  .next (filterPickupExpiry f s)

/-- FILTER_DROPOUT_EXPIRY. -/
def execFilterDropoutExpiry (f : FilterNo) (s : State) : Host.Outcome State Fault Refusal :=
  .next (filterDropoutExpiry f s)

/-- FRESHNESS_EXPIRY. -/
def execFreshnessExpiry (s : State) : Host.Outcome State Fault Refusal := .next (freshnessExpiry s)

end Sys2Proof.Machine
end

