-- ==== Sys2Proof/Machine/Inputs.lean ====
section
/-! DEFINITION. The contact inputs and the BLOCK input: contact filters, sensed positions, the table build and effective BLOCK (R19, R20, R32, R39, R55, R63, R66, R67). -/

namespace Sys2Proof.Machine

/-! ### One filtered input -/

/-- A raw level as it arrives: a difference from the filtered value is pending for the filter time, a return
discards it, and an input not yet established starts its steady time anew (R19). -/
def Contacts.raised (now : Clock) (filterMs : Nat) (level : Bool) (c : Contacts) : Contacts :=
  if c.raw = level then c
  else
    { c with
      raw := level
      deadline := if c.filtered = some level then none else some (addMs now filterMs) }

/-- The filtered value takes the raw level (R19). -/
def Contacts.taken (c : Contacts) : Contacts := { c with filtered := some c.raw, deadline := none }

/-- A pending change timed anew with a filter time (R19). -/
def Contacts.retimed (now : Clock) (filterMs : Nat) (c : Contacts) : Contacts :=
  { c with deadline := c.deadline.map fun _ => addMs now filterMs }

/-- The filter of an input that is not established yet takes its raw level (R19). -/
def Contacts.established (c : Contacts) : Contacts := if c.filtered = none then c.taken else c

/-- One of a step's two contact inputs. -/
def StepRec.contact (r : StepRec) : Contact → Contacts
  | .posA => r.posA
  | .posB => r.posB

/-- Write one of a step's two contact inputs. -/
def StepRec.withContact (r : StepRec) (c : Contact) (v : Contacts) : StepRec :=
  match c with
  | .posA => { r with posA := v }
  | .posB => { r with posB := v }

/-! ### A change of sensed position -/

/-- The ACTIVE record takes a targeted step's arrival (R55). -/
def judgeArrival (k : StepNo) (p : Sensed) (s : State) : State :=
  match s.sc.active with
  | none => s
  | some a =>
    if mem a.op.steps k ∧ p = a.op.kind.target then
      serve { s with sc := { s.sc with active := some { a with arrived := a.arrived ||| bit k } } }
    else s

/-- The set of lock reasons with OPEN-FAIL replaced by SLOW-OPEN (R32). -/
def slowOpenLocks (locks : BitVec 6) : BitVec 6 := (locks &&& ~~~LockReason.openFail.mask) ||| LockReason.slowOpen.mask

/-- A READY step whose contacts return to OPEN restarts its discharge (R67). -/
def StepRec.restarts (p : Sensed) (r : StepRec) : Bool := r.state = some .ready && p = .opened

/-- A LOCKED step with OPEN-FAIL whose contacts reach OPEN (R32). -/
def StepRec.slowOpens (p : Sensed) (r : StepRec) : Bool :=
  r.state = some .locked && p = .opened && hasLock r.locks .openFail

/-- The step record after a change of its sensed position to `p` (R20, R30, R32, R66, R67, R74, R76, R137). -/
def StepRec.follow (now : Clock) (c : StepSettings) (active : Bool) (p : Sensed) (r : StepRec) : StepRec :=
  { r.moved now c p with
    state := if r.restarts p then some .cooling else r.state
    locks := if r.slowOpens p then slowOpenLocks r.locks else r.locks
    openCount := if r.slowOpens p && !active then countUp r.openCount else r.openCount
    watch := watchAfter now c r.restPos r.sensed p r.watch }

/-- Append DISCHARGE-RESTART and set BREAKER-SEEN (R67). -/
def noteDischargeRestart (k : StepNo) (s : State) : State :=
  setBreakerSeen (note .dischargeRestart .info (some k) none (some ((s.cfg k).discharge : Int)) none s)

/-- Append STEP-LOCK with reason SLOW-OPEN and set BREAKER-SEEN (R32). -/
def noteSlowOpen (k : StepNo) (s : State) : State :=
  setBreakerSeen (note .stepLock .alarm (some k) none (some (LockReason.slowOpen.code : Int)) none s)

/-- A change of sensed position once the Step Table is built: the record, its events, the reports to the blocks
that read it, and the ACTIVE record (R20, R32, R55, R66, R67, R96, R127). The Step Manager's own records join before
those of the reports, as STEP-LOCK before BKTRIP-OFF in the worked case of chapter 3; of the reports, those of
`reportStep` come first, then LEARN-DISCARDED, then RES-DISCARDED, and last the channel's records of an arrival,
OP-DONE first, which no rule orders (DESIGN CHOICE, log entry 11). -/
def sensedChange (k : StepNo) (p : Sensed) (s : State) : State :=
  let r := s.stp k
  let t := putStep k (r.follow s.clock (s.cfg k) (s.activeOn k) p) s
  let u := if r.restarts p then noteDischargeRestart k t else t
  let v := if r.slowOpens p then noteSlowOpen k u else u
  v |> reportStep k |> discardSample .position |> discardWindow .position |> judgeArrival k p

/-- The sensed position follows the filtered values (R20). Before the build a change updates the position and its
times alone (R66, R74, R137). -/
def followContacts (k : StepNo) (s : State) : State :=
  let r := s.stp k
  match formSensed r.posA.filtered r.posB.filtered with
  | none => s
  | some p =>
    if r.sensed = some p then s
    else if s.sm.built then sensedChange k p s
    else
      putStep k { r with
        sensed := some p
        openSince := if p = .opened then some s.clock else none
        closedSince := if p = .closed then some s.clock else none } s

/-! ### The table build (R39) -/

/-- Every contact input has an established filtered value. -/
def allEstablished (s : State) : Bool :=
  allSteps.all fun k => (s.stp k).posA.filtered ≠ none && (s.stp k).posB.filtered ≠ none

/-- The record of a step whose contacts are CLOSED at the build, before its state (R39, R74, R137). -/
def StepRec.builtClosed (now : Clock) (c : StepSettings) (r : StepRec) : StepRec :=
  { r with
    commanded := .closed
    closedSince := some now
    minClosed := some (addSec now c.minClosed)
    inrush := some (addMs now c.inrushHold) }

/-- Build one step (R39). -/
def buildStep (s : State) (k : StepNo) : State :=
  let r := s.stp k
  let c := s.cfg k
  match r.sensed with
  | some .opened =>
    putStep k { r with
      state := some (if s.inService k then .cooling else .offline)
      commanded := .opened
      openSince := some 0
      discharge := some (addSec 0 c.discharge) } s
  | some .closed =>
    if s.inService k then putStep k { r.builtClosed s.clock c with state := some .closed } s
    else addLock .uncommanded k (setStep k (r.builtClosed s.clock c) s)
  | some .transit => addLock .positionInvalid k (setStep k { r with commanded := .opened } s)
  | some .invalid => addLock .positionInvalid k (setStep k { r with commanded := .opened } s)
  | none => s

/-- Build the Step Table at the first moment every input is established, and make the first start attempt (R39,
R50). -/
def buildTable (s : State) : State :=
  if s.sm.built || !allEstablished s then s
  else serve (allSteps.foldl buildStep { s with sm := { s.sm with built := true } })

/-! ### Effective BLOCK (R63) -/

/-- Append BLOCK-ON or BLOCK-OFF when effective BLOCK differs from what it was (R63). -/
def noteBlock (was : Bool) (s : State) : State :=
  if s.blocked = was then s
  else
    note (if s.blocked then .blockOn else .blockOff) .info none none
      (some (s.settings.yard.blockOverride.code : Int)) none s

/-- Write the BLOCK filter and report a change of effective BLOCK. -/
def putBlock (c : Contacts) (s : State) : State :=
  noteBlock s.blocked { s with sc := { s.sc with block := c } }

/-! ### The commands -/

/-- RAW_CONTACT_CHANGE (R19). -/
def rawContactChange (k : StepNo) (c : Contact) (level : Bool) (s : State) : State :=
  let r := s.stp k
  putStep k (r.withContact c ((r.contact c).raised s.clock (s.cfg k).contactFilter level)) s

/-- CONTACT_FILTER_EXPIRY (R19). -/
def contactFilterExpiry (k : StepNo) (c : Contact) (s : State) : State :=
  let r := s.stp k
  if due s.clock (r.contact c).deadline then
    s |> putStep k (r.withContact c (r.contact c).taken) |> followContacts k |> buildTable
  else s

/-- The inputs of one step still not established take their raw levels (R19). -/
def establishStep (s : State) (k : StepNo) : State :=
  let r := s.stp k
  s |> putStep k { r with posA := r.posA.established, posB := r.posB.established } |> followContacts k

/-- ESTABLISH_LIMIT, 500 ms after cold reset (R19, R39, R63). The BLOCK input is established first, so that its
BLOCK-ON or BLOCK-OFF joins before the STEP-LOCK records of the build, an order no rule gives (DESIGN CHOICE,
log entry 11). -/
def establishLimit (s : State) : State :=
  if due s.clock s.sm.establish then
    let t := putBlock s.sc.block.established { s with sm := { s.sm with establish := none } }
    buildTable (allSteps.foldl establishStep t)
  else s

/-- BLOCK_INPUT_CHANGE (R63). -/
def blockInputChange (level : Bool) (s : State) : State :=
  { s with sc := { s.sc with block := s.sc.block.raised s.clock blockFilterMs level } }

/-- BLOCK_FILTER_EXPIRY (R63). -/
def blockFilterExpiry (s : State) : State :=
  if due s.clock s.sc.block.deadline then putBlock s.sc.block.taken s else s

/-- RAW_CONTACT_CHANGE. -/
def execRawContactChange (k : StepNo) (c : Contact) (level : Bool) (s : State) : Host.Outcome State Fault Refusal :=
  .next (rawContactChange k c level s)

/-- CONTACT_FILTER_EXPIRY. -/
def execContactFilterExpiry (k : StepNo) (c : Contact) (s : State) : Host.Outcome State Fault Refusal :=
  .next (contactFilterExpiry k c s)

/-- ESTABLISH_LIMIT. -/
def execEstablishLimit (s : State) : Host.Outcome State Fault Refusal := .next (establishLimit s)

/-- BLOCK_INPUT_CHANGE. -/
def execBlockInputChange (level : Bool) (s : State) : Host.Outcome State Fault Refusal :=
  .next (blockInputChange level s)

/-- BLOCK_FILTER_EXPIRY. -/
def execBlockFilterExpiry (s : State) : Host.Outcome State Fault Refusal := .next (blockFilterExpiry s)

end Sys2Proof.Machine
end

