-- ==== Sys2Proof/Machine/Operands.lean ====
section
/-! DEFINITION. The operands of request frames: fields read from payload bytes (R168), ranges of every settings table, and whole settings parsed from a payload (R37, R97, R99, R118, R162). A parse that answers none is out of range. -/

namespace Sys2Proof.Machine

/-! ### Fields (R168) -/

/-- The byte at an offset of a payload. -/
def byteAt (p : List Byte) (i : Nat) : Nat := (p[i]?.getD 0).toNat

/-- The two-byte value at an offset, most significant byte first. -/
def wordAt (p : List Byte) (i : Nat) : Nat := byteAt p i * 256 + byteAt p (i + 1)

/-- The two-byte value at an offset, read signed. -/
def signedAt (p : List Byte) (i : Nat) : Int := (BitVec.ofNat 16 (wordAt p i)).toInt

/-- A step number, 1 to 6. -/
def stepOfByte (b : Nat) : Option StepNo := if h : 1 ≤ b ∧ b ≤ 6 then some ⟨b - 1, by omega⟩ else none

/-- A filter number, 1 to 8. -/
def filterOfByte (b : Nat) : Option FilterNo := if h : 1 ≤ b ∧ b ≤ 8 then some ⟨b - 1, by omega⟩ else none

/-- A flag: 0 or 1. -/
def flagOfByte (b : Nat) : Option Bool := if b = 0 then some false else if b = 1 then some true else none

/-- A set of steps or a combination: no bit above step 6. -/
def combOfByte (b : Nat) : Option Comb := if b < 64 then some (BitVec.ofNat 6 b) else none

/-- An enumerated value by its position in a list (Table 10-2). -/
def enumOfByte {α : Type} (values : List α) (b : Nat) : Option α := values[b]?

/-- A number inside a range, on a step counted from the lower end (log entry 10). -/
def inRange (lo hi step v : Nat) : Bool := lo ≤ v && v ≤ hi && (v - lo) % step = 0

/-- The set-forms (Table 10-2). -/
inductive SetForm | write | set | clear | toggle
deriving DecidableEq, Repr

/-- The set a form gives from the current set and the list (R169). -/
def SetForm.apply {w : Nat} (f : SetForm) (current list : BitVec w) : BitVec w :=
  match f with
  | .write => list
  | .set => current ||| list
  | .clear => current &&& ~~~list
  | .toggle => current ^^^ list

/-- A set-form byte. -/
def formOfByte (b : Nat) : Option SetForm := enumOfByte [.write, .set, .clear, .toggle] b

/-- A mode byte. -/
def modeOfByte (b : Nat) : Option Mode := enumOfByte [.auto, .remote, .hold] b

/-! ### STEP-CONFIG (R37, R97, R145) -/

/-- Every value of a step inside its range (Tables 2-5, 3-4, 4-1, 8-1 and R97 with the limits given). -/
def StepSettings.ok (dvMin dvMax : Nat) (c : StepSettings) : Bool :=
  inRange 2 50 1 c.contactFilter && inRange 50 2000 10 c.operateTimeout
    && inRange 20 500 10 c.closePulse && inRange 20 500 10 c.openPulse
    && c.closePulse ≤ c.operateTimeout && c.openPulse ≤ c.operateTimeout
    && inRange 1 3 1 c.retryCount && inRange 5 300 1 c.retryInterval
    && inRange 60 900 1 c.discharge && inRange 1 8 1 c.closeLimit
    && inRange 1 24 1 c.restWindow && inRange 0 3600 1 c.minClosed
    && -32768 ≤ c.inherentX && c.inherentX ≤ 32767 && -32768 ≤ c.inherentY && c.inherentY ≤ 32767
    && inRange 9000 11000 1 c.refV && inRange 0 2000 1 c.inrushHold
    && inRange 1 30000 1 c.unbAlarm && inRange 1 30000 1 c.unbTrip && c.unbAlarm < c.unbTrip
    && inRange 1 600 1 c.alarmDelay && inRange 20 10000 1 c.tripDelay
    && (dvMin : Int) ≤ c.dvEstimate && c.dvEstimate ≤ dvMax

/-- The values of a STEP-CONFIG payload, unchecked but for its named values (Table 10-4). -/
def readStep (p : List Byte) : Option StepSettings :=
  match enumOfByte [CloseFailMode.lock, .retry, .report] (byteAt p 39),
      enumOfByte [TripMode.latch, .report, .off] (byteAt p 40) with
  | some failMode, some trip =>
    some
      { contactFilter := wordAt p 1
        operateTimeout := wordAt p 3
        closePulse := wordAt p 5
        openPulse := wordAt p 7
        retryCount := wordAt p 9
        retryInterval := wordAt p 11
        discharge := wordAt p 13
        closeLimit := wordAt p 15
        restWindow := wordAt p 17
        minClosed := wordAt p 19
        inherentX := signedAt p 21
        inherentY := signedAt p 23
        refV := wordAt p 25
        inrushHold := wordAt p 27
        unbAlarm := wordAt p 29
        unbTrip := wordAt p 31
        alarmDelay := wordAt p 33
        tripDelay := wordAt p 35
        dvEstimate := wordAt p 37
        closeFailMode := failMode
        tripMode := trip }
  | _, _ => none

/-- The settings of a STEP-CONFIG payload when every value is in range. -/
def parseStep (dvMin dvMax : Nat) (p : List Byte) : Option StepSettings :=
  (readStep p).filter (StepSettings.ok dvMin dvMax)

/-! ### CONTROL-CONFIG (R97, R99) -/

/-- Every value inside its range (Tables 1-3 and 5-1, R97). -/
def ControlSettings.ok (c : ControlSettings) : Bool :=
  inRange 0 5000 1 c.ldcR && inRange 0 5000 1 c.ldcX && inRange 9000 11000 1 c.setpoint
    && inRange 100 2000 2 c.bandwidth && inRange 50 2000 1 c.urgentMargin
    && (c.supervision = 0 || inRange 10 3600 1 c.supervision)
    && inRange 5 600 1 c.raiseDelay && inRange 5 600 1 c.lowerDelay && inRange 1 60 1 c.urgentDelay
    && inRange 0 60 1 c.jitterMax && inRange 0 500 1 c.predictMargin && inRange 2 30 1 c.settle
    && inRange 10 1500 1 c.dvMin && inRange 10 1500 1 c.dvMax && c.dvMin ≤ c.dvMax

/-- The values of a CONTROL-CONFIG payload, unchecked but for its named values (Table 10-4). -/
def readControl (p : List Byte) : Option ControlSettings :=
  match modeOfByte (byteAt p 28), enumOfByte [Fallback.auto, .hold] (byteAt p 29),
      enumOfByte [RemovalOrder.fifo, .lifo] (byteAt p 30) with
  | some start, some fallback, some order =>
    some
      { ldcR := wordAt p 0
        ldcX := wordAt p 2
        setpoint := wordAt p 4
        bandwidth := wordAt p 6
        urgentMargin := wordAt p 8
        supervision := wordAt p 10
        raiseDelay := wordAt p 12
        lowerDelay := wordAt p 14
        urgentDelay := wordAt p 16
        jitterMax := wordAt p 18
        predictMargin := wordAt p 20
        settle := wordAt p 22
        dvMin := wordAt p 24
        dvMax := wordAt p 26
        startMode := start
        fallback := fallback
        removalOrder := order }
  | _, _, _ => none

/-- The settings of a CONTROL-CONFIG payload when every value is in range. -/
def parseControl (p : List Byte) : Option ControlSettings := (readControl p).filter ControlSettings.ok

/-! ### YARD-CONFIG (R162, R173) -/

/-- Every value inside its range (Tables 3-4, 7-1 and 9-1, R162). -/
def YardSettings.ok (y : YardSettings) : Bool :=
  inRange 1 60 1 y.restInterval && inRange 20 2000 1 y.resFloor && inRange 120 1000 1 y.resRatio
    && inRange 100 5000 1 y.vetoLevel && inRange 10 1440 1 y.suspectHold && inRange 10 1440 1 y.vetoHold
    && inRange 10500 13000 1 y.ov1Level && inRange 1 60 1 y.ov1Delay
    && inRange 11000 15000 1 y.ov2Level && y.ov1Level < y.ov2Level && inRange 20 2000 10 y.ov2Delay
    && inRange 1000 7000 1 y.deadLevel && inRange 50 5000 10 y.deadDelay
    && inRange 5000 9500 1 y.restoreLevel && y.deadLevel < y.restoreLevel && inRange 1 600 1 y.restoreDelay
    && inRange 0 10 1 y.retryLimit && inRange 1 24 1 y.retryWindow

/-- The values of a YARD-CONFIG payload, unchecked but for its named values (Table 10-4). -/
def readYard (p : List Byte) : Option YardSettings :=
  match enumOfByte [Frequency.hz50, .hz60] (byteAt p 32),
      enumOfByte [Selection.average, .highest, .lowest] (byteAt p 33),
      enumOfByte [BlockOverride.follow, .force, .ignore] (byteAt p 34),
      enumOfByte [false, true] (byteAt p 35),
      enumOfByte [YardTripMode.auto, .latch] (byteAt p 36),
      enumOfByte [EvClass.info, .alarm, .trip] (byteAt p 37) with
  | some freq, some sel, some override, some evict, some mode, some attn =>
    some
      { restInterval := wordAt p 0
        resFloor := wordAt p 2
        resRatio := wordAt p 4
        vetoLevel := wordAt p 6
        suspectHold := wordAt p 8
        vetoHold := wordAt p 10
        ov1Level := wordAt p 12
        ov1Delay := wordAt p 14
        ov2Level := wordAt p 16
        ov2Delay := wordAt p 18
        deadLevel := wordAt p 20
        deadDelay := wordAt p 22
        restoreLevel := wordAt p 24
        restoreDelay := wordAt p 26
        retryLimit := wordAt p 28
        retryWindow := wordAt p 30
        frequency := freq
        selection := sel
        blockOverride := override
        evict := evict
        yardTripMode := mode
        attnClass := attn }
  | _, _, _, _, _, _ => none

/-- The settings of a YARD-CONFIG payload when every value is in range. -/
def parseYard (p : List Byte) : Option YardSettings := (readYard p).filter YardSettings.ok

/-- Every setting of Table 9-1 is the same in two images (R162). -/
def YardSettings.sameProtection (a b : YardSettings) : Bool :=
  a.ov1Level = b.ov1Level && a.ov1Delay = b.ov1Delay && a.ov2Level = b.ov2Level && a.ov2Delay = b.ov2Delay
    && a.deadLevel = b.deadLevel && a.deadDelay = b.deadDelay && a.restoreLevel = b.restoreLevel
    && a.yardTripMode = b.yardTripMode && a.restoreDelay = b.restoreDelay && a.retryLimit = b.retryLimit
    && a.retryWindow = b.retryWindow

/-! ### FILTER-CONFIG (R118) -/

/-- Every value inside its range (Table 6-1, R118). -/
def FilterSettings.ok (c : FilterSettings) : Bool :=
  c.orders ≠ 0 && inRange 1 20000 1 c.threshold && inRange 0 60 1 c.pickup && inRange 0 60 1 c.dropout
    && (if c.qualifier = .contains then c.qualifierSteps ≠ 0 else c.qualifierSteps = 0)

/-- The values of a FILTER-CONFIG payload, unchecked but for its named values and its flag (Table 10-4). -/
def readFilter (p : List Byte) : Option FilterSettings :=
  match enumOfByte [Source.voltage, .yardCurrent] (byteAt p 1),
      enumOfByte [Measure.rss, .sum] (byteAt p 5),
      flagOfByte (byteAt p 8),
      enumOfByte [Qualifier.always, .anyEnergized, .contains, .voltageHigh, .fresh] (byteAt p 9),
      combOfByte (byteAt p 10),
      enumOfByte [Action.alarm, .blockClose, .removeLast, .tripAll] (byteAt p 15),
      enumOfByte [Response.selfReset, .latched] (byteAt p 16) with
  | some source, some measure, some invert, some qualifier, some steps, some action, some response =>
    some
      { source := source
        orders := BitVec.ofNat 24 (byteAt p 2 * 65536 + wordAt p 3)
        measure := measure
        threshold := wordAt p 6
        invert := invert
        qualifier := qualifier
        qualifierSteps := steps
        pickup := wordAt p 11
        dropout := wordAt p 13
        action := action
        response := response }
  | _, _, _, _, _, _, _ => none

/-- The settings of a FILTER-CONFIG payload when every value is in range. -/
def parseFilter (p : List Byte) : Option FilterSettings := (readFilter p).filter FilterSettings.ok

end Sys2Proof.Machine
end

