-- ==== Sys2Proof/Machine/Replies.lean ====
section
/-! DEFINITION. What TXD sends: the check of a frame, the envelope, the event record, and the contents of every reply written by type (R165, R168, Tables 10-1, 10-2 and 10-5). The order of the fields of a reply and the place of its presence bytes are the model's choice: log entry 14. -/

namespace Sys2Proof.Machine

/-! ### The check and the envelope (R165, Table 10-1) -/

/-- One bit of the check (R165). -/
def crcBit (c : BitVec 16) : BitVec 16 := if c.msb then (c <<< 1) ^^^ 0x1021#16 else c <<< 1

/-- One byte of the check, most significant bit first (R165). -/
def crcByte (c : BitVec 16) (b : Byte) : BitVec 16 :=
  (List.range 8).foldl (fun x _ => crcBit x) (c ^^^ (b.setWidth 16 <<< 8))

/-- The check over the bytes from length to the last payload byte (R165). -/
def crc16 (bytes : List Byte) : BitVec 16 := bytes.foldl crcByte 0xFFFF#16

/-- The two check bytes, high byte first. -/
def checkBytes (c : BitVec 16) : List Byte := [c.extractLsb' 8 8, c.extractLsb' 0 8]

/-- A whole frame with its sync byte and its check (Table 10-1). -/
def frameBytes (kind tag : Byte) (payload : List Byte) : List Byte :=
  let body := BitVec.ofNat 8 payload.length :: kind :: tag :: payload
  0xA5 :: body ++ checkBytes (crc16 body)

/-! ### Values by type (R168) -/

/-- A number, a count, or the position of a named value in its list: 1 byte. -/
def oneByte (n : Nat) : List Byte := [BitVec.ofNat 8 n]

/-- A flag: 0 for no, 1 for yes. -/
def flagByte (b : Bool) : List Byte := oneByte b.toNat

/-- A value of two bytes, most significant byte first, signed where the quantity is signed. -/
def twoBytes (v : Int) : List Byte :=
  let w := BitVec.ofInt 16 v
  [w.extractLsb' 8 8, w.extractLsb' 0 8]

/-- An unsigned value of two bytes. -/
def wordBytes (n : Nat) : List Byte := twoBytes n

/-- A set of orders across 24 bits. -/
def ordersBytes (o : BitVec 24) : List Byte := [o.extractLsb' 16 8, o.extractLsb' 8 8, o.extractLsb' 0 8]

/-- A value of four bytes, most significant byte first. -/
def fourBytes (v : BitVec 32) : List Byte :=
  [v.extractLsb' 24 8, v.extractLsb' 16 8, v.extractLsb' 8 8, v.extractLsb' 0 8]

/-- A number of four bytes, signed where the quantity is signed. -/
def longBytes (v : Int) : List Byte := fourBytes (BitVec.ofInt 32 v)

/-- The four bytes of an optional value; an absent one is carried as 0. -/
def valueBytes (v : Option Int) : List Byte := longBytes (v.getD 0)

/-- Flags as one number: the first is bit 0. -/
def packFlags : List Bool → Nat
  | [] => 0
  | b :: l => b.toNat + 2 * packFlags l

/-- An optional field: its width when absent, and its bytes when present. -/
structure OptField where
  width : Nat
  bytes : Option (List Byte)

/-- The bytes of an optional field; an absent one is carried as 0. -/
def OptField.carried (f : OptField) : List Byte := f.bytes.getD (List.replicate f.width 0)

/-- A presence byte, bit i for the field at position i, and after it the fields concerned. -/
def behind (l : List OptField) : List Byte :=
  oneByte (packFlags (l.map fun f => f.bytes.isSome)) ++ l.flatMap OptField.carried

/-- An optional yard clock value. -/
def optClock (d : Option Clock) : OptField := ⟨4, d.map fourBytes⟩

/-- An optional number of 1 byte. -/
def optByte (n : Option Nat) : OptField := ⟨1, n.map oneByte⟩

/-- A step's number. -/
def stepByte (k : StepNo) : List Byte := oneByte (k.val + 1)

/-! ### The event record (Table 10-5) -/

/-- The presence byte of an event record (Table 10-5). -/
def EventRec.presence (e : EventRec) : Byte :=
  BitVec.ofNat 8 (packFlags [e.step.isSome, e.opId.isSome, e.value.isSome, e.second.isSome])

/-- The 17 bytes of an event record (Table 10-5). -/
def EventRec.bytes (e : EventRec) : List Byte :=
  fourBytes e.time
    ++ [BitVec.ofNat 8 e.kind.code, BitVec.ofNat 8 e.cls.rank, e.presence,
        BitVec.ofNat 8 ((e.step.map fun k => k.val + 1).getD 0), e.opId.getD 0]
    ++ valueBytes e.value ++ valueBytes e.second

/-! ### Named values that Table 10-2 does not list, each by the order of its own table (log entry 14) -/

/-- GOOD, CLIPPED, ABSENT (Figure 1-1). -/
def Quality.code (q : Quality) : Nat := q.ctorIdx

/-- Voltage Controller states in Table 5-2 order. -/
def VcState.code (v : VcState) : Nat := v.ctorIdx

/-- LOW, IN, HIGH (Table 1-4). -/
def Band.code (b : Band) : Nat := b.ctorIdx

/-- Usable, unusable, NONE (R170). -/
def FrameRecord.code : FrameRecord → Nat
  | .usable => 0
  | .unusable => 1
  | .none => 2

/-- Step states in Table 2-3 order (Table 10-2). -/
def StepState.code (x : StepState) : Nat := x.ctorIdx

/-- OPEN, CLOSED (Table 2-1). -/
def Commanded.code (c : Commanded) : Nat := c.ctorIdx

/-- OPEN, CLOSED, TRANSIT, INVALID (Table 2-1). -/
def Sensed.code (p : Sensed) : Nat := p.ctorIdx

/-- QUIET, PICKING-UP, OPERATED (R136, Figure 9-1). -/
def Stage.code (g : Stage) : Nat := g.ctorIdx

/-- QUIET, PICKING-UP, OPERATED (Figure 9-1). -/
def Ov1Stage.code (g : Ov1Stage) : Nat := g.ctorIdx

/-- NORMAL, TRIPPED-AUTO, RESTORING, TRIPPED-LATCHED (section 9.2). -/
def TripState.code (t : TripState) : Nat := t.ctorIdx

/-- The cause a yard trip state carries. -/
def TripState.tripCause : TripState → Option TripCause
  | .normal => none
  | .trippedAuto c => some c
  | .restoring c _ => some c
  | .latched c => some c

/-- IDLE, CHANNEL-REST, ACTIVE (R42). -/
def ChannelState.code (c : ChannelState) : Nat := c.ctorIdx

/-- The id of the ACTIVE record, where there is one (R42). -/
def ChannelState.id : ChannelState → Option Byte
  | .idle => none
  | .channelRest => none
  | .active id => some id

/-- QUIET, PICKING-UP, ACTIVE, DROPPING, HELD (R102). -/
def FilterState.code (x : FilterState) : Nat := x.ctorIdx

/-- The state deadline of a filter (R102). -/
def FilterState.deadline : FilterState → Option Clock
  | .quiet => none
  | .pickingUp d => some d
  | .active => none
  | .dropping d => some d
  | .held => none

/-- NONE, IN-HAND, COMPLETE, STOPPED (R102). -/
def Removal.code (r : Removal) : Nat := r.ctorIdx

/-- The operation id of a removal in hand (R102). -/
def Removal.id : Removal → Option Byte
  | .none => Option.none
  | .inHand id => some id
  | .complete => Option.none
  | .stopped => Option.none

/-- NONE, STARTED, SETTLING, AFTER-WAIT (Figure 7-1). -/
def WindowPhase.code (p : WindowPhase) : Nat := p.ctorIdx

/-! ### Reply contents (R118, R121, R136, R170 to R172, R175, R177) -/

/-- Figure 1-1, in its order. -/
def CycleFrame.bytes (f : CycleFrame) : List Byte :=
  [fourBytes f.time, twoBytes f.va.value, twoBytes f.vb.value, twoBytes f.vc.value, oneByte f.va.quality.code,
    oneByte f.vb.quality.code, oneByte f.vc.quality.code, oneByte f.valid, twoBytes f.ip, twoBytes f.iq,
    f.neutrals.toList.flatMap (fun n => twoBytes n.x ++ twoBytes n.y),
    f.neutrals.toList.flatMap (fun n => flagByte n.clipped), flagByte f.vtLoss].flatten

/-- The table of R8, in its order. -/
def SpectrumFrame.bytes (g : SpectrumFrame) : List Byte :=
  [fourBytes g.time, g.vh.toList.flatMap wordBytes, g.qh.toList.flatMap wordBytes, twoBytes g.qa1, twoBytes g.qb1,
    twoBytes g.qc1].flatten

/-- The fields of the zeroing in flight (section 8.5), each behind a presence bit. R168 names no width for N, the frames
taken and the sums in a reply: 2 bytes, 2 bytes and 4 bytes each (DESIGN CHOICE, log entry 14). -/
def zeroingBytes (z : Option Zeroing) : List Byte :=
  behind
    [⟨1, z.map fun z => stepByte z.step⟩, ⟨2, z.map fun z => twoBytes z.length⟩,
      ⟨2, z.map fun z => twoBytes z.taken⟩, ⟨4, z.map fun z => longBytes z.sumX⟩,
      ⟨4, z.map fun z => longBytes z.sumY⟩, ⟨4, z.map fun z => longBytes z.sumV⟩,
      ⟨4, z.map fun z => fourBytes z.accepted⟩]

/-- State, lock reasons and unbalance-alarm flag of one step, absent before the Step Table is built (R170). -/
def StepStatus.field (x : StepStatus) : OptField :=
  ⟨3, x.state.map fun v => oneByte v.code ++ oneByte x.locks.toNat ++ flagByte x.alarmFlag⟩

/-- The Insertion List, head first: six places, each with the step that stands there (R22, R170). -/
def insertionBytes (l : List StepNo) : List Byte :=
  behind ((List.range 6).map fun i => optByte (l[i]?.map fun k => k.val + 1))

/-- The sticky flag set: bit k for the flag at position k of R178. -/
def Sticky.byte (x : Sticky) : List Byte :=
  oneByte (packFlags [x.clampSeen, x.unbSeen, x.harmonicSeen, x.ovSeen, x.breakerSeen, x.storeInvalid])

/-- The contents of a STATUS reply, in the order of R170. -/
def StatusReport.bytes (r : StatusReport) : List Byte :=
  [oneByte r.mode.code, oneByte r.vcState.code, oneByte r.band.code, flagByte r.urgentHigh, twoBytes r.vc,
    flagByte r.saturated, oneByte r.frame.code, oneByte r.trip.code,
    behind [optByte (r.trip.tripCause.map fun c => c.cause.code)], oneByte r.ov1.code, oneByte r.ov2.code,
    oneByte r.dead.code, oneByte r.tripTimes, oneByte r.inhibitors.toNat, flagByte r.harmBlock, flagByte r.vtLoss,
    flagByte r.built, oneByte r.energized.toNat, insertionBytes r.insertion, oneByte r.insertionLength,
    behind (r.steps.toList.map StepStatus.field), oneByte r.channel.code,
    behind [⟨1, r.channel.id.map fun i => [i]⟩], oneByte r.waiting, zeroingBytes r.zeroing, oneByte r.events,
    flagByte r.gap, flagByte r.attn, flagByte r.waitHeld, flagByte r.saving, r.sticky.byte].flatten

/-- The settings of a step as STEP-CONFIG carries them, the delta-V estimate apart (Table 10-4). -/
def StepSettings.bytes (c : StepSettings) : List Byte :=
  [twoBytes c.contactFilter, twoBytes c.operateTimeout, twoBytes c.closePulse, twoBytes c.openPulse,
    twoBytes c.retryCount, twoBytes c.retryInterval, twoBytes c.discharge, twoBytes c.closeLimit,
    twoBytes c.restWindow, twoBytes c.minClosed, twoBytes c.inherentX, twoBytes c.inherentY, twoBytes c.refV,
    twoBytes c.inrushHold, twoBytes c.unbAlarm, twoBytes c.unbTrip, twoBytes c.alarmDelay, twoBytes c.tripDelay,
    oneByte c.closeFailMode.ctorIdx, oneByte c.tripMode.ctorIdx].flatten

/-- The close list, oldest first: eight places, each with the time that stands there (R69). -/
def closeListBytes (l : List Clock) : List Byte := behind ((List.range 8).map fun i => optClock l[i]?)

/-- A stage with its pickup deadline (R136). -/
def Stage.bytes (g : Stage) : List Byte :=
  oneByte g.code ++ behind [optClock (match g with
    | .quiet => none
    | .pickingUp d => some d
    | .operated => none)]

/-- The latest compensated result of a step (R136). R168 names no width for the latest U in a reply: 2 bytes (DESIGN
CHOICE, log entry 14). -/
def latestBytes (l : Option UnbLatest) : List Byte :=
  behind
    [⟨4, l.map fun l => longBytes l.sx⟩, ⟨4, l.map fun l => longBytes l.sy⟩, ⟨2, l.map fun l => twoBytes l.cx⟩,
      ⟨2, l.map fun l => twoBytes l.cy⟩, ⟨2, l.map fun l => twoBytes l.u⟩]

/-- The step record in the order of Table 2-1, the close list standing where R171 names it. A STEP-READ is answered only
once the Step Table is built, when every step has a state and a sensed position. -/
def StepReport.recordBytes (r : StepReport) : List Byte :=
  [stepByte r.step, flagByte r.inService, oneByte ((r.record.state.map StepState.code).getD 0),
    oneByte r.record.commanded.code, oneByte ((r.record.sensed.map Sensed.code).getD 0),
    oneByte r.record.locks.toNat,
    behind [optClock r.record.openSince, optClock r.record.closedSince, optClock r.record.discharge],
    longBytes r.record.closeCount, longBytes r.record.openCount, behind [⟨1, r.record.lastOp.map fun i => [i]⟩],
    twoBytes r.settings.dvEstimate, flagByte r.record.alarmFlag, behind [optClock r.record.watch],
    r.settings.bytes].flatten

/-- The contents of a STEP-READ reply: the step record, the close list with its leave deadline and resting condition,
the minimum-closed deadline, the working fields of R136 and the zeroing (R171, section 8.5). -/
def StepReport.bytes (r : StepReport) : List Byte :=
  [r.recordBytes, closeListBytes r.record.closeList, behind [optClock r.record.leave], flagByte r.resting,
    behind [optClock r.record.minClosed], behind [optClock r.record.inrush], latestBytes r.record.latest,
    r.record.alarmStage.bytes, r.record.tripStage.bytes, zeroingBytes r.zeroing].flatten

/-- The settings of a filter as FILTER-CONFIG carries them (Table 10-4). -/
def FilterSettings.bytes (c : FilterSettings) : List Byte :=
  [oneByte c.source.ctorIdx, ordersBytes c.orders, oneByte c.measure.ctorIdx, twoBytes c.threshold,
    flagByte c.invert, oneByte c.qualifier.ctorIdx, oneByte c.qualifierSteps.toNat, twoBytes c.pickup,
    twoBytes c.dropout, oneByte c.action.ctorIdx, oneByte c.response.ctorIdx].flatten

/-- The contents of a FILTER-READ reply: the settings, then the working fields in the order of R102. -/
def FilterReport.bytes (r : FilterReport) : List Byte :=
  [r.settings.bytes, flagByte r.enabled, oneByte r.record.state.code, flagByte r.record.rep,
    behind [optClock r.record.state.deadline],
    behind [⟨2, r.record.level.map wordBytes⟩, ⟨1, r.record.asserted.map flagByte⟩], oneByte r.record.removal.code,
    behind [⟨1, r.record.removal.id.map fun i => [i]⟩]].flatten

/-- One entry of the Resonance Table (R121). R168 names no width for the worst ratio, which is in percent: 2 bytes (DESIGN
CHOICE, log entry 14). -/
def Entry.bytes (e : Entry) : List Byte :=
  oneByte e.state.code
    ++ behind [optByte (e.worst.map Worst.order), ⟨2, e.worst.map fun w => twoBytes w.ratio⟩,
      ⟨2, e.worst.map fun w => twoBytes w.after⟩, optClock e.expiry]

/-- The contents of a VETO-READ reply (R171). -/
def VetoReport.bytes (r : VetoReport) : List Byte :=
  r.entries.flatMap Entry.bytes ++ oneByte r.phase.code
    ++ behind [⟨1, r.windowId.map fun i => [i]⟩, optByte (r.windowComb.map BitVec.toNat)]

/-- Reply contents after the result code, the fields in the order their rule lists them. Where the result leaves no
contents (an operation refused CONFLICT or FULL, a read refused BUSY or RANGE) the reply ends after its result code, a
WAIT answered TIMEOUT ends after the number of records held, and the operation id of OPERATE stands without a presence
byte; R168 does not say whether absent fields of such a reply are sent as 0 behind a presence byte (DESIGN CHOICE, log
entry 14). -/
def ReplyBody.bytes : ReplyBody → List Byte
  | .empty => []
  | .operation id => [id]
  | .status r => r.bytes
  | .measure c g => behind [⟨49, c.map CycleFrame.bytes⟩] ++ behind [⟨106, g.map SpectrumFrame.bytes⟩]
  | .step r => r.bytes
  | .filter r => r.bytes
  | .veto r => r.bytes
  | .events records returned gap remaining =>
    records.flatMap EventRec.bytes ++ oneByte returned ++ flagByte gap ++ oneByte remaining
  | .waitEvent kind cls time records =>
    oneByte kind.code ++ oneByte cls.rank ++ fourBytes time ++ oneByte records
  | .waitTimeout records => oneByte records

/-- The payload of a reply: its result code, then its contents (Table 10-1, Table 10-3). -/
def Reply.payload (r : Reply) : List Byte := oneByte r.result.code ++ r.body.bytes

/-- The frame of a reply, with the check the controller computes of it (R165). -/
def Reply.frame (r : Reply) : List Byte := frameBytes r.kind r.tag r.payload

/-- The bytes TXD still has to send: the replies one after another in the order they were formed, the bytes of each
back to back (R165). -/
def txBytes (s : State) : List Byte := s.li.replies.flatMap Reply.frame

end Sys2Proof.Machine
end

