-- ==== Sys2Proof/Machine/Phasor.lean ====
section
/-! DEFINITION. A phasor referenced to an angle (R4): turned exactly where its components stay whole, and elsewhere to whole 0.01 A by a rounding that R4 leaves open (log entry 9). `Sys2Proof/Laws/Phasor.lean` holds it against the real cosine and sine. -/

namespace Sys2Proof.Machine

/-- The unit of the fixed-point numbers of this file. -/
def fixedUnit : Nat := 2 ^ 128

/-- The square of a complex number in fixed point: twice the angle. -/
def squareFixed (z : Int × Int) : Int × Int :=
  (divFloor (z.1 * z.1 - z.2 * z.2) fixedUnit, divFloor (2 * z.1 * z.2) fixedUnit)

/-- One part in 2^64 of an angle in thousandths of a degree, as 1 + i t with t in radians: pi to twenty decimals. -/
def smallTurn (angle : Nat) : Int × Int :=
  (fixedUnit, divFloor (angle * 314159265358979323846 * 2 ^ 64 : Nat) (180000 * 10 ^ 20))

/-- The angle doubled `n` times. -/
def doubleTurn : Nat → Int × Int → Int × Int
  | 0, z => z
  | n + 1, z => doubleTurn n (squareFixed z)

/-- Cosine and sine of an angle in thousandths of a degree, in fixed point. -/
def unitTurn (angle : Nat) : Int × Int := doubleTurn 64 (smallTurn (angle % 360000))

/-- What the fixed point may be off by on a phasor, in fixed point. -/
def turnSlack (x y : Int) : Int := ((x.natAbs + y.natAbs) * 2 ^ 78 : Nat)

/-- A whole number next to a fixed-point one: the free choice `pick`, held between the next lower whole number and the
next higher one. -/
def roundOpen (v slack pick : Int) : Int :=
  clampInt (divFloor (v - slack) fixedUnit) (-divFloor (-(v + slack)) fixedUnit) pick

/-- A phasor turned back by a number of quarter turns. -/
def turnQuarters (n : Nat) (x y : Int) : Int × Int :=
  match n % 4 with
  | 0 => (x, y)
  | 1 => (y, -x)
  | 2 => (-x, -y)
  | _ => (-y, x)

/-- The component `x cos r + y sin r` where it is a whole number and no rounding touches it, for an angle r below a
quarter turn: at 0 always, at 30, 45 and 60 degrees where the irrational part is zero and the halves are whole, and at
no other angle unless both x and y are zero. -/
def wholeTurn (r : Nat) (x y : Int) : Option Int :=
  if r = 0 then some x
  else if r = 30000 then if x = 0 ∧ y % 2 = 0 then some (y / 2) else none
  else if r = 45000 then if x + y = 0 then some 0 else none
  else if r = 60000 then if y = 0 ∧ x % 2 = 0 then some (x / 2) else none
  else none

/-- The component `x cos r + y sin r`: itself where it is whole, and else a whole number next to it, a free value
(log entry 9). -/
def turnedPart (r : Nat) (x y pick : Int) : Int :=
  match wholeTurn r x y with
  | some c => c
  | none => roundOpen (x * (unitTurn r).1 + y * (unitTurn r).2) (turnSlack x y) pick

/-- A phasor's components against the cycle start, referenced to an angle (R4): turned back by its quarter turns, and
by what is left of it, each component rounded to a whole number where it is not one (log entry 9). -/
def turnBack (ref : Nat) (x y : Int) : Int × Int :=
  let p := turnQuarters (ref / 90000) x y
  let pick := Config.turned ref x y
  (turnedPart (ref % 90000) p.1 p.2 pick.1, turnedPart (ref % 90000) p.2 (-p.1) pick.2)

end Sys2Proof.Machine
end

