-- ==== Sys2Proof/Machine/ResonanceLearner.lean ====
section
/-! DEFINITION. The Resonance Learner: discards on frames, the judgement, eviction, expiry and host writes (R121 to R135). -/

namespace Sys2Proof.Machine

/-- Write one entry of the Resonance Table. -/
def putEntry (c : Comb) (e : Entry) (s : State) : State :=
  { s with rl := { s.rl with table := s.rl.table.set c.toFin e } }

/-- The learning window is offered Cycle Frames in SETTLING and AFTER-WAIT (R9, R127). -/
def frameAtLearner (f : CycleFrame) (s : State) : State :=
  if f.vtLoss then discardWindow .vtLoss s
  else if f.valid = 0 then discardWindow .unusable s
  else s

/-! ### The judgement (R128) -/

/-- The ratio of one order (R128). -/
def growth (before after : Nat) : Nat := min (after * 100 / max before 10) 9999

/-- One order's judgement: absent when the order is not judged (R128). -/
def judgeOrder (floor : Nat) (before after : Vector Nat 24) (i : Fin 24) : Option Worst :=
  if floor ≤ after[i] then some ⟨i.val + 2, growth before[i] after[i], after[i]⟩ else none

/-- The greater ratio of two, the earlier (lower) order among equals (R128). -/
def worseOf (best : Option Worst) (w : Option Worst) : Option Worst :=
  match best, w with
  | none, w => w
  | some b, none => some b
  | some b, some w => if b.ratio < w.ratio then some w else some b

/-- The worst order of an after frame against the before spectrum; absent when the judgement is quiet (R128). -/
def judge (floor : Nat) (before after : Vector Nat 24) : Option Worst :=
  (List.finRange 24).foldl (fun best i => worseOf best (judgeOrder floor before after i)) none

/-- Results of a judgement (R129). -/
inductive Verdict | noChange | pinnedWritten (w : Worst) | suspect (w : Worst) | vetoed (w : Worst)
deriving DecidableEq, Repr

/-- The tests of R129 in order. -/
def verdict (y : YardSettings) (c : Comb) (state : EntryState) (w : Option Worst) : Verdict :=
  if c = 0 then .noChange
  else
    match state, w with
    | .pinned, some w => .pinnedWritten w
    | .pinned, none => .noChange
    | _, none => .noChange
    | st, some w =>
      if y.vetoLevel ≤ w.after then .vetoed w
      else if y.resRatio ≤ w.ratio then (if st = .clear then .suspect w else .vetoed w)
      else .noChange

/-- Append RES-SUSPECT, RES-VETO or RES-JUDGED (R129). -/
def noteJudged (kind : EventKind) (cls : EvClass) (w : WindowStart) (c : Comb) (worst : Option Worst) (s : State) :
    State :=
  note kind cls (some w.step) (some w.id) (some (c.toNat : Int)) (worst.map fun x => (x.ratio : Int)) s

/-- The eviction of R131: all three conditions hold. -/
def evicts (w : WindowStart) (c : Comb) (s : State) : Bool :=
  s.settings.yard.evict && w.kind = .close && s.energized = c

/-- Request the eviction and append RES-EVICT (R131). After RES-VETO, the OP-CANCELLED records of resolving the request
join before RES-EVICT and the records of a start in the same event after it, an order R131 does not give (DESIGN CHOICE,
log entry 11). -/
def evict (w : WindowStart) (c : Comb) (s : State) : State :=
  let t := request (oneStep .open_ w.step .protection .resEvict .rl) w.step s
  serve (note .resEvict .alarm (some w.step) t.1.id (some (c.toNat : Int)) (some (t.1.code : Int)) t.2)

/-- The judgement of a window on its after frame (R126, R128, R129, R131). -/
def judgeWindow (w : WindowStart) (c : Comb) (g : SpectrumFrame) (s : State) : State :=
  let y := s.settings.yard
  let worst := judge y.resFloor w.before g.vh
  let closed := { s with rl := { s.rl with window := .none } }
  match verdict y c (s.entry c).state worst with
  | .noChange => noteJudged .resJudged .info w c worst closed
  | .pinnedWritten x => noteJudged .resJudged .info w c worst (putEntry c { s.entry c with worst := some x } closed)
  | .suspect x =>
    noteJudged .resSuspect .info w c worst
      (putEntry c ⟨.suspect, some x, some (addMin s.clock y.suspectHold)⟩ closed)
  | .vetoed x =>
    let t := setHarmonicSeen <| noteJudged .resVeto .alarm w c worst
      (putEntry c ⟨.vetoed, some x, some (addMin s.clock y.vetoHold)⟩ closed)
    if evicts w c t then evict w c t else t

/-- A Spectrum Frame arrives at the Resonance Learner (R126). -/
def spectrumAtLearner (g : SpectrumFrame) (s : State) : State :=
  match s.rl.window with
  | .afterWait w c => judgeWindow w c g s
  | .none | .started _ | .settling _ _ _ => s

/-! ### Deadlines and host writes -/

/-- RES_SETTLE_EXPIRY (R126). -/
def resSettleExpiry (s : State) : State :=
  match s.rl.window with
  | .settling w c d => if passed s.clock d then { s with rl := { s.rl with window := .afterWait w c } } else s
  | .none | .started _ | .afterWait _ _ => s

/-- ENTRY_EXPIRY (R130). -/
def entryExpiry (c : Comb) (s : State) : State :=
  if due s.clock (s.entry c).expiry then
    note .resExpire .info none none (some (c.toNat : Int)) (some ((s.entry c).state.code : Int))
      (putEntry c .clear s)
  else s

/-- The entry a VETO-WRITE leaves (R132). SUSPECT is no state a host writes. -/
def writtenEntry (st : EntryState) (now : Clock) (y : YardSettings) : Entry :=
  match st with
  | .clear => .clear
  | .suspect => .clear
  | .vetoed => ⟨.vetoed, none, some (addMin now y.vetoHold)⟩
  | .pinned => ⟨.pinned, none, none⟩

/-- A taken VETO-WRITE (R132). -/
def takeVetoWrite (c : Comb) (st : EntryState) (s : State) : State :=
  note .vetoWritten .info none none (some (c.toNat : Int)) (some (st.code : Int))
    (putEntry c (writtenEntry st s.clock s.settings.yard) s)

/-- RES_SETTLE_EXPIRY. -/
def execResSettleExpiry (s : State) : Host.Outcome State Fault Refusal := .next (resSettleExpiry s)

/-- ENTRY_EXPIRY. -/
def execEntryExpiry (c : Comb) (s : State) : Host.Outcome State Fault Refusal := .next (entryExpiry c s)

end Sys2Proof.Machine
end

