-- ==== Sys2Proof/Machine/VoltageControl.lean ====
section
/-! DEFINITION. The Voltage Controller: the control voltage, the timers, raises and lowers, learning, modes and supervision (R14 to R18, R79 to R101). -/

namespace Sys2Proof.Machine

/-! ### The control voltage (R14 to R17) -/

/-- A phase is valid when GOOD or CLIPPED (R2). -/
def Phase.valid (p : Phase) : Bool := p.quality ≠ .absent

/-- The values of a frame's valid phases. -/
def CycleFrame.values (f : CycleFrame) : List Nat := ([f.va, f.vb, f.vc].filter Phase.valid).map Phase.value

/-- The average of the valid phases, floor; 0 with none (R14, R138). -/
def CycleFrame.average (f : CycleFrame) : Nat := f.values.sum / f.values.length

/-- The greatest valid value; absent with no valid phase (R6, R14, R153). -/
def CycleFrame.highest (f : CycleFrame) : Option Nat :=
  match f.values with
  | [] => none
  | v :: vs => some (vs.foldl max v)

/-- The least valid value. -/
def CycleFrame.lowest (f : CycleFrame) : Option Nat :=
  match f.values with
  | [] => none
  | v :: vs => some (vs.foldl min v)

/-- Vsel (R14). -/
def CycleFrame.select (f : CycleFrame) : Selection → Nat
  | .average => f.average
  | .highest => f.highest.getD 0
  | .lowest => f.lowest.getD 0

/-- The line drop (R15). -/
def lineDrop (c : ControlSettings) (ip iq : Int) : Int := divZero (ip * c.ldcR + iq * c.ldcX) 10000

/-- Vraw (R15). -/
def rawVoltage (c : ControlSettings) (sel : Selection) (f : CycleFrame) : Int :=
  (f.select sel : Int) - lineDrop c f.ip f.iq

/-- Band status of a control voltage (R17). -/
def bandOf (c : ControlSettings) (vc : Int) : Band :=
  if vc < lowerLimit c then .low else if upperLimit c < vc then .high else .inBand

/-- URGENT-HIGH of a control voltage (R17). -/
def urgentOf (c : ControlSettings) (vc : Int) : Bool := upperLimit c + c.urgentMargin < vc

/-- A frame is usable with one or more valid phases (R14). -/
def CycleFrame.usable (f : CycleFrame) : Bool := f.values ≠ []

/-- Compute and hold Vc, SATURATED, the band status and the frame record (R14 to R17). -/
def holdVoltage (f : CycleFrame) (s : State) : State :=
  let c := s.settings.control
  let raw := rawVoltage c s.settings.yard.selection f
  let vc := clampInt 0 20000 raw
  setClampSeen (vc ≠ raw)
    { s with vc := { s.vc with
        vc := vc
        saturated := vc ≠ raw
        band := bandOf c vc
        urgentHigh := urgentOf c vc
        frame := if f.usable then .usable else .unusable
        ll := lowerLimit c
        ul := upperLimit c } }

/-! ### Timers (R84 to R87) -/

/-- Write the Voltage Controller's state. -/
def setVc (v : VcState) (s : State) : State := { s with vc := { s.vc with state := v } }

/-- A fresh jitter in seconds, 0 to JITTER-MAX (R86); the sequence is free (log entry 5). -/
def jitterOf (s : State) : Nat :=
  if s.settings.control.jitterMax = 0 then 0 else Config.jitter s.draws % (s.settings.control.jitterMax + 1)

/-- Start or restart the raise timer (R84, R88). -/
def startRaise (s : State) : State :=
  { setVc (.raiseTiming (addSec s.clock (s.settings.control.raiseDelay + jitterOf s))) s with draws := s.draws + 1 }

/-- The URGENT-DELAY of the settings is the one of the lower timer that starts now (R99; log entry 36). -/
def holdUrgent (s : State) : State :=
  { s with vc := { s.vc with urgentHeld := s.settings.control.urgentDelay } }

/-- Start or restart the lower timer (R85, R91). -/
def startLower (s : State) : State :=
  if s.vc.urgentHigh then setVc (.lowerTiming (addSec s.clock s.settings.control.urgentDelay)) (holdUrgent s)
  else
    { setVc (.lowerTiming (addSec s.clock (s.settings.control.lowerDelay + jitterOf s))) (holdUrgent s) with
      draws := s.draws + 1 }

/-- The timers on a frame in WATCH, RAISE-TIMING or LOWER-TIMING, on the values just held (R84, R85). A running lower
timer is shortened by the URGENT-DELAY it started with (R99). -/
def timersOnFrame (s : State) : State :=
  if s.vc.frame ≠ .usable then setVc .watch s
  else
    match s.vc.band with
    | .inBand => setVc .watch s
    | .low =>
      match s.vc.state with
      | .raiseTiming _ => s
      | _ => startRaise s
    | .high =>
      match s.vc.state with
      | .lowerTiming d =>
        if s.vc.urgentHigh then
          setVc (.lowerTiming (earlier s.clock d (addSec s.clock s.vc.urgentHeld))) s
        else s
      | _ => startLower s

/-- A Cycle Frame arrives at the Voltage Controller (R84 to R87, R96). -/
def frameAtVc (f : CycleFrame) (s : State) : State :=
  let t := holdVoltage f s
  match t.vc.state with
  | .watch => timersOnFrame t
  | .raiseTiming _ => timersOnFrame t
  | .lowerTiming _ => timersOnFrame t
  | .awaiting _ => t
  | .settling _ _ =>
    if f.vtLoss then discardSample .vtLoss t else if !f.usable then discardSample .unusable t else t
  | .suspended => t

/-! ### Raising (R88 to R90) -/

/-- The combination's mark lets a CONTROL operation reach it: neither VETOED nor PINNED (R122). -/
def EntryState.reachable : EntryState → Bool
  | .clear => true
  | .suspect => true
  | .vetoed => false
  | .pinned => false

/-- Step k is a raise candidate (R89). -/
def raiseCandidate (s : State) (k : StepNo) : Bool :=
  eligibleToClose .control k s
    && (s.entry (s.energized ||| bit k)).state.reachable
    && decide (s.vc.vc + (s.cfg k).dvEstimate ≤ s.vc.ul - s.settings.control.predictMargin)

/-- The ranking keys of a raise candidate, the step number apart (R90). -/
def raiseKeys (s : State) (k : StepNo) : Nat × Nat × Nat :=
  (if (s.entry (s.energized ||| bit k)).state = .suspect then 1 else 0,
    (s.stp k).closeList.length, (s.stp k).closeCount)

/-- One set of keys ranks strictly before another. -/
def keysBefore (a b : Nat × Nat × Nat) : Bool :=
  a.1 < b.1 || (a.1 = b.1 && (a.2.1 < b.2.1 || (a.2.1 = b.2.1 && a.2.2 < b.2.2)))

/-- The first-ranked raise candidate: among equal keys the lowest step number (R90). -/
def bestRaise (s : State) : Option StepNo :=
  (allSteps.filter (raiseCandidate s)).foldl (fun best k =>
    match best with
    | none => some k
    | some b => if keysBefore (raiseKeys s k) (raiseKeys s b) then some k else some b) none

/-- Make the sample and append CONTROL-REQUEST (R90, R92). -/
def awaitOperation (dir : Direction) (k : StepNo) (id : Byte) (s : State) : State :=
  note .controlRequest .info (some k) (some id) (some (dir.code : Int)) (some s.vc.vc)
    (setVc (.awaiting ⟨id, dir, k, s.vc.vc⟩) s)

/-- Append NO-CANDIDATE (R89, R91). -/
def noteNoCandidate (dir : Direction) (s : State) : State :=
  note .noCandidate .info none none (some (dir.code : Int)) (some s.vc.vc) s

/-- Request the close of the first-ranked candidate (R90). CONTROL-REQUEST joins before OP-START, as in section 5.11;
the OP-CANCELLED of a retry that the request supersedes joins before CONTROL-REQUEST or RAISE-INHIBITED, which no rule
orders (DESIGN CHOICE, log entry 11). -/
def requestRaise (k : StepNo) (s : State) : State :=
  let t := request (oneStep .close k .control .raise .vc) k s
  match raiseRefusal t.1, t.1.id with
  | some reason, _ =>
    startRaise (note .raiseInhibited .info (some k) none (some 0) (some (reason : Int)) t.2) |> serve
  | none, some id => serve (awaitOperation .raise k id t.2)
  | none, none => serve t.2

/-- RAISE_EXPIRY (R88, R89, R90). -/
def raiseExpiry (s : State) : State :=
  match s.vc.state with
  | .raiseTiming d =>
    if passed s.clock d then
      if s.inhibitors ≠ 0 then
        startRaise (note .raiseInhibited .info none none (some (s.inhibitors.toNat : Int)) (some 0) s)
      else
        match bestRaise s with
        | none => startRaise (noteNoCandidate .raise s)
        | some k => requestRaise k s
    else s
  | .watch | .lowerTiming _ | .awaiting _ | .settling _ _ | .suspended => s

/-! ### Lowering (R91, R92) -/

/-- Step k is a lower candidate (R91). -/
def lowerCandidate (s : State) (k : StepNo) : Bool :=
  eligibleToOpen k s
    && (s.entry (without s.energized (bit k))).state.reachable
    && (s.vc.urgentHigh
      || decide (s.vc.ll + s.settings.control.predictMargin ≤ s.vc.vc - (s.cfg k).dvEstimate))

/-- The Insertion List in the order REMOVAL-ORDER walks it (R92). -/
def removalWalk (s : State) : List StepNo :=
  match s.settings.control.removalOrder with
  | .fifo => s.sm.insertion
  | .lifo => s.sm.insertion.reverse

/-- Request the open of the chosen step (R92). The OP-CANCELLED records of resolving the request join before
CONTROL-REQUEST or LOWER-INHIBITED, and the records of a start in the same event after it, an order R92 does not give
(DESIGN CHOICE, log entry 11). -/
def requestLower (k : StepNo) (s : State) : State :=
  let t := request (oneStep .open_ k .control .lower .vc) k s
  match lowerRefusal t.1, t.1.id with
  | some reason, _ =>
    startLower (note .lowerInhibited .info (some k) none none (some (reason : Int)) t.2) |> serve
  | none, some id => serve (awaitOperation .lower k id t.2)
  | none, none => serve t.2

/-- LOWER_EXPIRY (R91, R92). -/
def lowerExpiry (s : State) : State :=
  match s.vc.state with
  | .lowerTiming d =>
    if passed s.clock d then
      match (removalWalk s).find? (lowerCandidate s) with
      | none => startLower (noteNoCandidate .lower s)
      | some k => requestLower k s
    else s
  | .watch | .raiseTiming _ | .awaiting _ | .settling _ _ | .suspended => s

/-! ### Learning (R95) -/

/-- The new estimate from the old one and the measured change, before the clamp (R95). -/
def learned (old measured : Int) : Int := divZero (3 * old + measured) 4

/-- The measured change (R95). -/
def measuredChange (dir : Direction) (before after : Int) : Int :=
  match dir with
  | .raise => after - before
  | .lower => before - after

/-- Clamp an estimate to DV-MIN to DV-MAX. -/
def clampEstimate (c : ControlSettings) (e : Int) : Int := clampInt c.dvMin c.dvMax e

/-- SETTLE_EXPIRY (R95). -/
def settleExpiry (s : State) : State :=
  match s.vc.state with
  | .settling smp d =>
    if passed s.clock d then
      let old := (s.cfg smp.step).dvEstimate
      let new := clampEstimate s.settings.control (learned old (measuredChange smp.dir smp.vBefore s.vc.vc))
      note .learnDone .info (some smp.step) (some smp.id) (some old) (some new)
        (setVc .watch (setCfg smp.step { s.cfg smp.step with dvEstimate := new } s))
    else s
  | .watch | .raiseTiming _ | .lowerTiming _ | .awaiting _ | .suspended => s

/-! ### Modes and supervision (R79 to R82, R98) -/

/-- Set the supervision deadline afresh by the mode and SUPERVISION (R81). -/
def refreshSupervision (s : State) : State :=
  { s with vc := { s.vc with supervision := supervisionAt s.clock s.vc.mode s.settings.control.supervision } }

/-- A change of mode (R79, R81, R96, R98, R127). The named mode that is current changes nothing. After
MODE-CHANGE, LEARN-DISCARDED joins before RES-DISCARDED, which no rule orders (DESIGN CHOICE, log entry 11). -/
def changeMode (m : Mode) (s : State) : State :=
  if m = s.vc.mode then s
  else
    let t := note .modeChange .info none none (some (m.code : Int)) (some (s.vc.mode.code : Int))
      (refreshSupervision { s with vc := { s.vc with mode := m } })
    t |> discardSample .mode |> setVc (if m = .auto then .watch else .suspended) |> discardWindow .mode

/-- SUPERVISION_EXPIRY (R82). -/
def supervisionExpiry (s : State) : State :=
  if due s.clock s.vc.supervision then
    let c := s.settings.control
    let t := note .hostSilent .alarm none none (some (c.supervision : Int)) (some (c.fallback.code : Int))
      { s with vc := { s.vc with supervision := none } }
    let m := match c.fallback with
      | .auto => Mode.auto
      | .hold => Mode.hold
    t |> changeMode m |> cancelDirectedCloses
  else s

/-! ### CONTROL-CONFIG (R81, R96, R97, R99) -/

/-- Clamp one step's estimate to the limits in force, with ESTIMATE-CLAMPED when it moves (R97). -/
def clampStep (s : State) (k : StepNo) : State :=
  let old := (s.cfg k).dvEstimate
  let new := clampEstimate s.settings.control old
  if new = old then s
  else
    note .estimateClamped .info (some k) none (some old) (some new) (setCfg k { s.cfg k with dvEstimate := new } s)

/-- A taken CONTROL-CONFIG (R81, R96, R97, R99). The ESTIMATE-CLAMPED records join in step-number order and before
LEARN-DISCARDED, which the rules leave open (DESIGN CHOICE, log entry 11). -/
def takeControlConfig (c : ControlSettings) (s : State) : State :=
  let old := s.settings.control
  let t := refreshSupervision { s with settings := { s.settings with control := c } }
  let u := if old.dvMin = c.dvMin ∧ old.dvMax = c.dvMax then t else allSteps.foldl clampStep t
  if old.ldcR = c.ldcR ∧ old.ldcX = c.ldcX then u else discardSample .config u

/-- RAISE_EXPIRY. -/
def execRaiseExpiry (s : State) : Host.Outcome State Fault Refusal := .next (raiseExpiry s)

/-- LOWER_EXPIRY. -/
def execLowerExpiry (s : State) : Host.Outcome State Fault Refusal := .next (lowerExpiry s)

/-- SETTLE_EXPIRY. -/
def execSettleExpiry (s : State) : Host.Outcome State Fault Refusal := .next (settleExpiry s)

/-- SUPERVISION_EXPIRY. -/
def execSupervisionExpiry (s : State) : Host.Outcome State Fault Refusal := .next (supervisionExpiry s)

end Sys2Proof.Machine
end

