-- ==== Sys2Proof/Machine/UnbalanceProtection.lean ====
section
/-! DEFINITION. Unbalance Protection: compensation, the two stages, their operation and zeroing (R136 to R152). -/

namespace Sys2Proof.Machine

/-! ### Compensation (R138, R139) -/

/-- One component of the scaled inherent phasor (R138). -/
def scaled (inherent : Int) (vavg refV : Nat) : Int := divNearest (inherent * vavg) refV

/-- A compensated component before its clamp (R139). -/
def compensated (x sx : Int) : Int := x - sx

/-- The clamp of R139. -/
def clampComponent (c : Int) : Int := clampInt (-32767) 32767 c

/-- The compensated magnitude (R139). -/
def unbalanceOf (clipped : Bool) (cx cy : Int) : Nat := if clipped then 46340 else isqrt (cx * cx + cy * cy).toNat

/-- The latest values of a step on an evaluated frame (R138, R139). -/
def evaluate (c : StepSettings) (vavg : Nat) (n : Neutral) : UnbLatest :=
  let sx := scaled c.inherentX vavg c.refV
  let sy := scaled c.inherentY vavg c.refV
  let cx := clampComponent (compensated n.x sx)
  let cy := clampComponent (compensated n.y sy)
  ⟨sx, sy, cx, cy, unbalanceOf n.clipped cx cy⟩

/-- Whether R139 clamped a component. -/
def evaluateClamps (n : Neutral) (l : UnbLatest) : Bool :=
  l.cx ≠ compensated n.x l.sx || l.cy ≠ compensated n.y l.sy

/-! ### The stages (R140) -/

/-- The dropout level of a stage (R140). -/
def dropoutLevel (level : Nat) : Nat := level * 95 / 100

/-- A stage on an evaluated frame; `pick` is the pickup deadline it would set (R140). -/
def Stage.onFrame (level : Nat) (pick : Clock) (u : Nat) : Stage → Stage
  | .quiet => if level ≤ u then .pickingUp pick else .quiet
  | .pickingUp d => if u < dropoutLevel level then .quiet else .pickingUp d
  | .operated => if u < dropoutLevel level then .quiet else .operated

/-- The record of a supervised step past its hold after an evaluated frame (R138 to R140). -/
def StepRec.evaluated (now : Clock) (c : StepSettings) (l : UnbLatest) (r : StepRec) : StepRec :=
  { r with
    latest := some l
    alarmStage := r.alarmStage.onFrame c.unbAlarm (addSec now c.alarmDelay) l.u
    tripStage :=
      if c.tripMode = .off then .quiet else r.tripStage.onFrame c.unbTrip (addMs now c.tripDelay) l.u }

/-- One step handles a frame with a valid phase (R137 to R140). -/
def evaluateStep (f : CycleFrame) (s : State) (k : StepNo) : State :=
  let r := s.stp k
  if r.supervised && r.inrush = none then
    let l := evaluate (s.cfg k) f.average f.neutrals[k]
    setClampSeen (evaluateClamps f.neutrals[k] l) (putStep k (r.evaluated s.clock (s.cfg k) l) s)
  else s

/-! ### Zeroing (R146 to R150) -/

/-- Vavg is in the zeroing range (R146, R149). -/
def vavgInRange (f : CycleFrame) : Bool := f.usable && 9000 ≤ f.average && f.average ≤ 11000

/-- The first of the frame tests of R149 that a frame meets. -/
def zeroAbortCause (z : Zeroing) (f : CycleFrame) : Option ZeroReason :=
  if !vavgInRange f then some .voltage
  else if f.vtLoss then some .vtLoss
  else if f.neutrals[z.step].clipped then some .clipped
  else none

/-- The sums with one frame more (R147). -/
def Zeroing.add (z : Zeroing) (f : CycleFrame) : Zeroing :=
  { z with
    taken := z.taken + 1
    sumX := z.sumX + f.neutrals[z.step].x
    sumY := z.sumY + f.neutrals[z.step].y
    sumV := z.sumV + f.average }

/-- The step settings with the means of a completed zeroing (R148). -/
def Zeroing.means (z : Zeroing) (c : StepSettings) : StepSettings :=
  { c with
    inherentX := divNearest z.sumX z.length
    inherentY := divNearest z.sumY z.length
    refV := (divNearest z.sumV z.length).toNat }

/-- The zeroing completes (R148). -/
def completeZero (z : Zeroing) (s : State) : State :=
  let c := z.means (s.cfg z.step)
  note .zeroDone .info (some z.step) none (some c.inherentX) (some c.inherentY)
    (setCfg z.step c { s with zeroing := none })

/-- The zeroing in flight handles a frame (R147, R148, R149). -/
def zeroOnFrame (f : CycleFrame) (s : State) : State :=
  match s.zeroing with
  | none => s
  | some z =>
    match zeroAbortCause z f with
    | some reason => abortZero reason s
    | none =>
      if (z.add f).taken < z.length then { s with zeroing := some (z.add f) } else completeZero (z.add f) s

/-- A Cycle Frame arrives at Unbalance Protection (R138, R147). -/
def frameAtUp (f : CycleFrame) (s : State) : State :=
  zeroOnFrame f (if f.usable then allSteps.foldl (evaluateStep f) s else s)

/-- The latest U of a step, as an event carries it. -/
def latestU (k : StepNo) (s : State) : Option Int := (s.stp k).latest.map fun l => (l.u : Int)

/-! ### Deadlines -/

/-- INRUSH_HOLD_EXPIRY (R137). -/
def inrushHoldExpiry (k : StepNo) (s : State) : State :=
  if due s.clock (s.stp k).inrush then putStep k { s.stp k with inrush := none } s else s

/-- UNB_ALARM_PICKUP_EXPIRY (R141). -/
def unbAlarmPickupExpiry (k : StepNo) (s : State) : State :=
  match (s.stp k).alarmStage with
  | .pickingUp d =>
    if passed s.clock d then
      putStep k { s.stp k with alarmStage := .operated } s
        |> note .unbAlarm .alarm (some k) none (latestU k s) (some ((s.cfg k).unbAlarm : Int))
        |> (fun t => putStep k { t.stp k with alarmFlag := true } t)
        |> setUnbSeen
    else s
  | .quiet | .operated => s

/-- Append UNB-TRIP and set UNB-SEEN (R143, R144). -/
def noteUnbTrip (k : StepNo) (id : Option Byte) (u : Option Int) (s : State) : State :=
  setUnbSeen (note .unbTrip .trip (some k) id u (some ((s.cfg k).unbTrip : Int)) s)

/-- The trip stage operates in LATCH: the lock, the request, UNB-TRIP and UNB-SEEN in this order (R143). The Switching
Channel's records of resolving the request, a take-over among them, join before UNB-TRIP, and the records of a start
that follows join after it: R143 places neither (DESIGN CHOICE, log entry 11). -/
def tripLatch (k : StepNo) (s : State) : State :=
  let locked := lockStep .unbalance k (putStep k { s.stp k with tripStage := .operated } s)
  let t := request (oneStep .open_ k .protection .unbalance .up) k locked
  serve (noteUnbTrip k t.1.id (latestU k s) t.2)

/-- UNB_TRIP_PICKUP_EXPIRY (R143, R144). In TRIP-MODE OFF the stage does not run and stays QUIET (R140). -/
def unbTripPickupExpiry (k : StepNo) (s : State) : State :=
  match (s.stp k).tripStage with
  | .pickingUp d =>
    if passed s.clock d then
      match (s.cfg k).tripMode with
      | .latch => tripLatch k s
      | .report => noteUnbTrip k none (latestU k s) (putStep k { s.stp k with tripStage := .operated } s)
      | .off => putStep k { s.stp k with tripStage := .quiet } s
    else s
  | .quiet | .operated => s

/-- The tests of a ZERO request in their order (R146): the result that refuses it. -/
def zeroRefusal (k : StepNo) (s : State) : Option Result :=
  if s.zeroing ≠ none then some .busy
  else if ¬((s.stp k).state = some .closed ∧ (s.stp k).sensed = some .closed) then some .state
  else if (s.stp k).inrush ≠ none then some .condition
  else
    match s.mu.cycle with
    | none => some .condition
    | some f => if !vavgInRange f then some .condition else if f.vtLoss then some .condition else none

/-- A taken ZERO (R146). -/
def takeZero (k : StepNo) (n : Nat) (s : State) : State :=
  note .zeroStart .info (some k) none (some (n : Int)) none { s with zeroing := some ⟨k, n, 0, 0, 0, 0, s.clock⟩ }

/-- INRUSH_HOLD_EXPIRY. -/
def execInrushHoldExpiry (k : StepNo) (s : State) : Host.Outcome State Fault Refusal := .next (inrushHoldExpiry k s)

/-- UNB_ALARM_PICKUP_EXPIRY. -/
def execUnbAlarmPickupExpiry (k : StepNo) (s : State) : Host.Outcome State Fault Refusal :=
  .next (unbAlarmPickupExpiry k s)

/-- UNB_TRIP_PICKUP_EXPIRY. -/
def execUnbTripPickupExpiry (k : StepNo) (s : State) : Host.Outcome State Fault Refusal :=
  .next (unbTripPickupExpiry k s)

end Sys2Proof.Machine
end

