-- ==== Sys2Proof/Machine/YardProtection.lean ====
section
/-! DEFINITION. Yard Protection: OV1, OV2, the dead-line stage, the yard trip state and the trip-time list (R153 to R164). -/

namespace Sys2Proof.Machine

/-- Write what Yard Protection owns. -/
def setYp (y : YardProt) (s : State) : State := { s with yp := y }

/-! ### Conditions (R153, R154, R156, R157) -/

/-- Some value exceeds a level: the conditions of OV1 and OV2 (R154, R156). -/
def exceeds (level : Nat) : Option Nat → Bool
  | none => false
  | some v => level < v

/-- The dead-line condition (R157). -/
def deadCondition (level : Nat) (f : CycleFrame) : Bool :=
  f.va.value < level && f.vb.value < level && f.vc.value < level && !f.vtLoss

/-- A stage without hysteresis on a frame; `pick` is the pickup deadline it would set (R153). -/
def Stage.track (cond : Bool) (pick : Clock) : Stage → Stage
  | .quiet => if cond then .pickingUp pick else .quiet
  | .pickingUp d => if cond then .pickingUp d else .quiet
  | .operated => if cond then .operated else .quiet

/-- OV1 on a frame (R153). -/
def Ov1Stage.track (cond : Bool) (pick : Clock) : Ov1Stage → Ov1Stage
  | .quiet => if cond then .pickingUp pick else .quiet
  | .pickingUp d => if cond then .pickingUp d else .quiet
  | .operated d => if cond then .operated d else .quiet

/-- The restore condition of a cause on a frame (R160). -/
def restoreCondition (y : YardSettings) (c : TripCause) (f : CycleFrame) : Bool :=
  match c with
  | .ov2 => f.usable && !exceeds y.ov1Level f.highest
  | .deadLine =>
    y.restoreLevel ≤ f.va.value && y.restoreLevel ≤ f.vb.value && y.restoreLevel ≤ f.vc.value && !f.vtLoss

/-- The yard trip state on a frame (R160). -/
def TripState.track (y : YardSettings) (now : Clock) (f : CycleFrame) : TripState → TripState
  | .normal => .normal
  | .trippedAuto c => if restoreCondition y c f then .restoring c (addSec now y.restoreDelay) else .trippedAuto c
  | .restoring c d => if restoreCondition y c f then .restoring c d else .trippedAuto c
  | .latched c => .latched c

/-- A Cycle Frame arrives at Yard Protection: the stages, then the yard trip state (R153, R160). -/
def frameAtYp (f : CycleFrame) (s : State) : State :=
  let y := s.settings.yard
  let now := s.clock
  setYp { s.yp with
    ov1 := s.yp.ov1.track (exceeds y.ov1Level f.highest) (addSec now y.ov1Delay)
    ov2 := s.yp.ov2.track (exceeds y.ov2Level f.highest) (addMs now y.ov2Delay)
    dead := s.yp.dead.track (deadCondition y.deadLevel f) (addMs now y.deadDelay)
    trip := s.yp.trip.track y now f } s

/-- Vhigh of the last frame; absent when it had none, and before the first frame (R153). -/
def lastVhigh (s : State) : Option Nat := s.mu.cycle.bind CycleFrame.highest

/-! ### OV1 (R155) -/

/-- OV1 may take a step: CLOSED, and in no WAITING OPEN (R155). -/
def ov1Takes (s : State) (k : StepNo) : Bool :=
  (s.stp k).state = some .closed && !(s.sc.waiting.any fun o => o.kind = .open_ && mem o.steps k)

/-- Append OV1-OPERATE and set OV-SEEN (R155). The OV1-LEVEL it carries is the working setting as it stands at the
expiry, also when a YARD-CONFIG changed it after the last frame, on which the stage still stands: R162 makes the level
apply from the next Cycle Frame, R173 writes it at once, and R155 does not say which of the two the record carries
(DESIGN CHOICE, log entry 40). -/
def noteOv1 (k : Option StepNo) (id : Option Byte) (s : State) : State :=
  setOvSeen (note .ov1Operate .alarm k id ((lastVhigh s).map Int.ofNat) (some (s.settings.yard.ov1Level : Int)) s)

/-- OV1 removes one step and sets its repeat deadline (R155). The OP-CANCELLED records of resolving the request join
before OV1-OPERATE, and the OP-START and the discards of a start in the same event after it, an order R155 does not give
(DESIGN CHOICE, log entry 11). -/
def ov1Remove (s : State) : State :=
  let t := setYp { s.yp with ov1 := .operated (addSec s.clock s.settings.yard.ov1Delay) } s
  match (removalWalk t).find? (ov1Takes t) with
  | none => noteOv1 none none t
  | some k =>
    let u := request (oneStep .open_ k .protection .ov1 .yp) k t
    serve (noteOv1 (some k) u.1.id u.2)

/-! ### The yard trip (R156 to R159) -/

/-- The leave deadline of the trip-time list (R159). -/
def tripLeave (windowHours : Nat) : List Clock → Option Clock
  | [] => none
  | t :: _ => some (addHour t windowHours)

/-- The trip-time list with one trip more (R158, R159). -/
def addTrip (windowHours : Nat) (now : Clock) (y : YardProt) : YardProt :=
  let list := (if 10 ≤ y.times.length then y.times.drop 1 else y.times) ++ [now]
  { y with
    times := list
    leave := if y.times = [] ∨ 10 ≤ y.times.length then tripLeave windowHours list else y.leave }

/-- The trip now being made exceeds RETRY-LIMIT (R158). -/
def overLimit (y : YardSettings) (times : List Clock) : Bool := y.retryLimit ≠ 0 && y.retryLimit < times.length + 1

/-- A counted trip (R158). -/
def countTrip (c : TripCause) (s : State) : State :=
  let y := s.settings.yard
  let p := addTrip y.retryWindow s.clock s.yp
  if overLimit y s.yp.times then
    note .yardLatch .trip none none (some ((s.yp.times.length + 1 : Nat) : Int)) (some (y.retryLimit : Int))
      (setYp { p with trip := .latched c } s)
  else setYp { p with trip := .trippedAuto c } s

/-- The yard trip state of R158 by the state before and YARD-TRIP-MODE. -/
def enterTrip (c : TripCause) (s : State) : State :=
  match s.yp.trip with
  | .latched _ => setYp { s.yp with trip := .latched c } s
  | .normal | .trippedAuto _ | .restoring _ _ =>
    match s.settings.yard.yardTripMode with
    | .latch => setYp { s.yp with trip := .latched c } s
    | .auto => countTrip c s

/-- A yard trip with a cause (R158; YARD-LATCH before YARD-TRIP as in the worked case of chapter 9). Of the two discards
it reports, LEARN-DISCARDED joins before RES-DISCARDED, which R158 leaves open (DESIGN CHOICE, log entry 11). -/
def yardTrip (c : TripCause) (s : State) : State :=
  let t := enterTrip c s
  let u := setOvSeen (note .yardTrip .trip none none (some (c.cause.code : Int)) ((lastVhigh s).map Int.ofNat) t)
  if s.yp.trip.isNormal then u |> discardSample .yardTrip |> discardWindow .yardTrip else u

/-- The yard trip and the group OPEN that follows it (R156, R157). -/
def tripAndOpen (c : TripCause) (s : State) : State :=
  let t := yardTrip c s
  serve (requestGroup (openAllReq c.cause .yp t) t).2

/-! ### Deadlines -/

/-- OV1_PICKUP_EXPIRY (R155). -/
def ov1PickupExpiry (s : State) : State :=
  match s.yp.ov1 with
  | .pickingUp d => if passed s.clock d then ov1Remove s else s
  | .quiet | .operated _ => s

/-- OV1_REPEAT_EXPIRY (R155). -/
def ov1RepeatExpiry (s : State) : State :=
  match s.yp.ov1 with
  | .operated d => if passed s.clock d then ov1Remove s else s
  | .quiet | .pickingUp _ => s

/-- OV2_PICKUP_EXPIRY (R156). -/
def ov2PickupExpiry (s : State) : State :=
  match s.yp.ov2 with
  | .pickingUp d => if passed s.clock d then tripAndOpen .ov2 (setYp { s.yp with ov2 := .operated } s) else s
  | .quiet | .operated => s

/-- DEAD_LINE_PICKUP_EXPIRY (R157). -/
def deadLinePickupExpiry (s : State) : State :=
  match s.yp.dead with
  | .pickingUp d => if passed s.clock d then tripAndOpen .deadLine (setYp { s.yp with dead := .operated } s) else s
  | .quiet | .operated => s

/-- Append YARD-RESTORE (R160, R161). -/
def noteRestore (c : TripCause) (way : RestoreWay) (s : State) : State :=
  note .yardRestore .info none none (some (c.cause.code : Int)) (some (way.code : Int)) s

/-- RESTORE_EXPIRY (R160). -/
def restoreExpiry (s : State) : State :=
  match s.yp.trip with
  | .restoring c d => if passed s.clock d then noteRestore c .delay (setYp { s.yp with trip := .normal } s) else s
  | .normal | .trippedAuto _ | .latched _ => s

/-- TRIP_TIME_LEAVE_EXPIRY (R159). -/
def tripTimeLeaveExpiry (s : State) : State :=
  if due s.clock s.yp.leave then
    setYp { s.yp with
      times := s.yp.times.drop 1
      leave := tripLeave s.settings.yard.retryWindow (s.yp.times.drop 1) } s
  else s

/-- ACKNOWLEDGE YARD: its result and the state after (R161). -/
def ackYard (s : State) : Result × State :=
  match s.yp.trip with
  | .normal => (.ok, s)
  | .trippedAuto _ => (.state, s)
  | .restoring _ _ => (.state, s)
  | .latched c =>
    match s.mu.cycle with
    | none => (.condition, s)
    | some f =>
      if restoreCondition s.settings.yard c f then
        (.ok, noteRestore c .acknowledge (setYp { s.yp with trip := .normal, times := [], leave := none } s))
      else (.condition, s)

/-- OV1_PICKUP_EXPIRY. -/
def execOv1PickupExpiry (s : State) : Host.Outcome State Fault Refusal := .next (ov1PickupExpiry s)

/-- OV1_REPEAT_EXPIRY. -/
def execOv1RepeatExpiry (s : State) : Host.Outcome State Fault Refusal := .next (ov1RepeatExpiry s)

/-- OV2_PICKUP_EXPIRY. -/
def execOv2PickupExpiry (s : State) : Host.Outcome State Fault Refusal := .next (ov2PickupExpiry s)

/-- DEAD_LINE_PICKUP_EXPIRY. -/
def execDeadLinePickupExpiry (s : State) : Host.Outcome State Fault Refusal := .next (deadLinePickupExpiry s)

/-- RESTORE_EXPIRY. -/
def execRestoreExpiry (s : State) : Host.Outcome State Fault Refusal := .next (restoreExpiry s)

/-- TRIP_TIME_LEAVE_EXPIRY. -/
def execTripTimeLeaveExpiry (s : State) : Host.Outcome State Fault Refusal := .next (tripTimeLeaveExpiry s)

end Sys2Proof.Machine
end

