-- ==== Sys2Proof/Machine/MeasurementUnit.lean ====
section
/-! DEFINITION. The Measurement Unit: how the Cycle Frame and the Spectrum Frame are formed from the measured quantities, the timebase, and frame delivery (R1 to R11). -/

namespace Sys2Proof.Machine

/-! ### The Cycle Frame (R2 to R5) -/

/-- A phase voltage with its quality (R2). -/
def formPhase (p : PhaseInput) : Phase :=
  if p.fullScale then ⟨.clipped, 20000⟩
  else if p.fundamental < 100000 then ⟨.absent, 0⟩
  else ⟨.good, min (divNearest p.fundamental 1000).toNat 20000⟩

/-- A GOOD value was reduced to 20 000 (R2). -/
def phaseClamps (p : PhaseInput) : Bool := !p.fullScale && 20000 < (divNearest p.fundamental 1000).toNat

/-- The inputs of the phases valid on the frame. -/
def validInputs (m : CycleInput) : List PhaseInput := [m.va, m.vb, m.vc].filter fun p => (formPhase p).valid

/-- The average of a part of the line current over the valid phases, toward zero, before its clamp (R3). -/
def averagePart (part : PhaseInput → Int) (m : CycleInput) : Int :=
  divZero ((validInputs m).map part).sum (1000 * (validInputs m).length)

/-- IP and IQ are clamped to -30 000 to +30 000 (R3). -/
def clampCurrent (i : Int) : Int := clampInt (-30000) 30000 i

/-- The angle reference a frame selects, in thousandths of a degree: the first valid phase in the order VA, VB, VC
brought to phase A; with none, the reference carried forward (R4). -/
def selectRef (carried : Nat) (m : CycleInput) : Nat :=
  if (formPhase m.va).valid then m.va.angle
  else if (formPhase m.vb).valid then (m.vb.angle + 120000) % 360000
  else if (formPhase m.vc).valid then (m.vc.angle + 240000) % 360000
  else carried

/-- The range of a neutral component (R4). -/
def clampNeutral (x : Int) : Int := clampInt (-32768) 32767 x

/-- A phasor in its range, CLIPPED at full scale or when a component had to be clamped (R4). -/
def boundNeutral (fullScale : Bool) (p : Int × Int) : Neutral :=
  ⟨clampNeutral p.1, clampNeutral p.2, fullScale || clampNeutral p.1 ≠ p.1 || clampNeutral p.2 ≠ p.2⟩

/-- A neutral phasor referenced to the frame's angle reference, with its quality (R4). -/
def formNeutral (ref : Nat) (n : NeutralInput) : Neutral := boundNeutral n.fullScale (turnBack ref n.x n.y)

/-- A phase that shows the failure of its transformer: ABSENT, or valid below 2 000 vu (R5). -/
def Phase.failed (p : Phase) : Bool := !p.valid || p.value < 2000

/-- A healthy phase: valid with 7 000 vu or more (R5). -/
def Phase.healthy (p : Phase) : Bool := p.valid && 7000 ≤ p.value

/-- VT-LOSS of three phases (R5). A phase is never both failed and healthy, so the healthy one is another. -/
def vtLossOf (a b c : Phase) : Bool := (a.failed || b.failed || c.failed) && (a.healthy || b.healthy || c.healthy)

/-- The Cycle Frame of a cycle (R2 to R5, Figure 1-1); `carried` is the angle reference of the last frame that had
one. -/
def formCycle (now : Clock) (carried : Nat) (m : CycleInput) : CycleFrame :=
  let a := formPhase m.va
  let b := formPhase m.vb
  let c := formPhase m.vc
  { time := now
    va := a
    vb := b
    vc := c
    valid := (validInputs m).length
    ip := clampCurrent (averagePart PhaseInput.active m)
    iq := clampCurrent (averagePart PhaseInput.reactive m)
    neutrals := m.neutrals.map (formNeutral (selectRef carried m))
    vtLoss := vtLossOf a b c }

/-- The frame's clamps that set CLAMP-SEEN (R2, R3). -/
def cycleClamps (m : CycleInput) : Bool :=
  phaseClamps m.va || phaseClamps m.vb || phaseClamps m.vc
    || clampCurrent (averagePart PhaseInput.active m) ≠ averagePart PhaseInput.active m
    || clampCurrent (averagePart PhaseInput.reactive m) ≠ averagePart PhaseInput.reactive m

/-- VT-LOSS-ON or VT-LOSS-OFF when the new frame differs from the condition held (R6). -/
def noteVtLoss (was : Bool) (f : CycleFrame) (s : State) : State :=
  if f.vtLoss = was then s
  else if f.vtLoss then
    appendEvent ⟨f.time, .vtLossOn, .alarm, none, none, some ((min f.va.value (min f.vb.value f.vc.value) : Nat) : Int),
      f.highest.map Int.ofNat⟩ s
  else appendEvent ⟨f.time, .vtLossOff, .info, none, none, none, none⟩ s

/-! ### The timebase (R1, R7, R10) -/

/-- Cycles in a spectrum window (R7). -/
def windowCycles : Frequency → Nat
  | .hz50 => 10
  | .hz60 => 12

/-- Length of the cycle at a place of the pattern (R1). -/
def cycleLength (f : Frequency) (pos : Fin 3) : Nat :=
  match f with
  | .hz50 => 20
  | .hz60 => if pos = 2 then 16 else 17

/-- The phases still valid on every Cycle Frame of the window. -/
def PhaseFlags.and (p : PhaseFlags) (f : CycleFrame) : PhaseFlags :=
  ⟨p.a && f.va.valid, p.b && f.vb.valid, p.c && f.vc.valid⟩

/-- The timebase starts anew at a frequency: first cycle, first window, window in progress abandoned (R10). -/
def restartTimebase (f : Frequency) (u : MeasUnit) : MeasUnit :=
  { u with
    freq := f
    freqChange := false
    cycleEnd := addMs u.cycleEnd (firstCycle f)
    patternPos := 0
    windowCount := 0
    windowValid := ⟨true, true, true⟩
    spectrumTaken := false }

/-- The next cycle of the timebase, and the end of a window with its last cycle (R1, R7). -/
def nextCycle (f : CycleFrame) (u : MeasUnit) : MeasUnit :=
  let pos := u.patternPos + 1
  let valid := u.windowValid.and f
  let t := { u with
    patternPos := pos, cycleEnd := addMs u.cycleEnd (cycleLength u.freq pos), spectrumTaken := false }
  if windowCycles u.freq ≤ u.windowCount + 1 then
    { t with
      windowCount := 0
      windowValid := ⟨true, true, true⟩
      owed := if u.spectrumTaken then none else some valid }
  else { t with windowCount := u.windowCount + 1, windowValid := valid }

/-- A change of FREQUENCY takes effect at this completion (R10). A window whose Spectrum Frame has completed already
is not abandoned: its last cycle completed with it, and a change accepted between the two frames waits for the next
cycle (log entry 35). -/
def MeasUnit.restarts (u : MeasUnit) : Bool := u.freqChange && !u.spectrumTaken

/-- The timebase at the completion of a cycle (R1, R7, R10). -/
def advance (wanted : Frequency) (f : CycleFrame) (u : MeasUnit) : MeasUnit :=
  if u.restarts then restartTimebase wanted u else nextCycle f u

/-- Deliver a Cycle Frame to its consumers (R9): the Voltage Controller, the Resonance Learner, Unbalance Protection and
Yard Protection. R9 lists them without an order, and this one is the model's (DESIGN CHOICE, log entry 11). All four
take the frame in one command, so that no Spectrum Frame, expiry or request comes between two of them, where R9 makes
each arrival an event of its own (DESIGN CHOICE, log entry 39). -/
def deliverCycle (f : CycleFrame) (s : State) : State :=
  s |> frameAtVc f |> frameAtLearner f |> frameAtUp f |> frameAtYp f

/-- CYCLE_FRAME (R1 to R6, R9, R10): the cycle in progress completes when its end is reached. -/
def cycleFrame (m : CycleInput) (s : State) : State :=
  if passed s.clock s.mu.cycleEnd then
    let f := formCycle s.clock s.mu.angleRef m
    let u := advance s.settings.yard.frequency f s.mu
    setClampSeen (cycleClamps m) { s with mu := { u with cycle := some f, angleRef := selectRef s.mu.angleRef m } }
      |> noteVtLoss s.vtLoss f
      |> deliverCycle f
  else s

/-! ### The Spectrum Frame (R8) -/

/-- Floor of a level to whole hu, before its clamp (R8). -/
def wholeLevel (milli : Nat) : Nat := milli / 1000

/-- The greatest clamped level of one order over the qualifying phases (R8). -/
def orderLevel (phases : List (Vector Nat 24)) (i : Fin 24) : Nat :=
  phases.foldl (fun best l => max best (min (wholeLevel l[i]) 10000)) 0

/-- Some level of the qualifying phases is above 10 000 hu (R8). -/
def levelsClamp (phases : List (Vector Nat 24)) : Bool :=
  phases.any fun l => l.toList.any fun x => 10000 < wholeLevel x

/-- The voltage phases valid on the whole window (R8). -/
def voltagePhases (v : PhaseFlags) (m : SpectrumInput) : List (Vector Nat 24) :=
  (if v.a then [m.va.levels] else []) ++ (if v.b then [m.vb.levels] else []) ++ (if v.c then [m.vc.levels] else [])

/-- A yard-current phase whose fundamental is at least 100 (R8). -/
def currentPhase (q : CurrentSpectrumInput) : List (Vector Nat 24) :=
  if 100000 ≤ q.fundamental then [q.levels] else []

/-- The qualifying yard-current phases (R8). -/
def currentPhases (m : SpectrumInput) : List (Vector Nat 24) :=
  currentPhase m.qa ++ currentPhase m.qb ++ currentPhase m.qc

/-- A yard fundamental to nearest, before its clamp (R8). -/
def yardFundamental (q : CurrentSpectrumInput) : Nat := (divNearest q.fundamental 1000).toNat

/-- The Spectrum Frame of a window (R8). -/
def formSpectrum (now : Clock) (v : PhaseFlags) (m : SpectrumInput) : SpectrumFrame where
  time := now
  vh := Vector.ofFn (orderLevel (voltagePhases v m))
  qh := Vector.ofFn (orderLevel (currentPhases m))
  qa1 := min (yardFundamental m.qa) 30000
  qb1 := min (yardFundamental m.qb) 30000
  qc1 := min (yardFundamental m.qc) 30000

/-- The frame's clamps, which set CLAMP-SEEN (R8). -/
def spectrumClamps (v : PhaseFlags) (m : SpectrumInput) : Bool :=
  levelsClamp (voltagePhases v m) || levelsClamp (currentPhases m)
    || 30000 < yardFundamental m.qa || 30000 < yardFundamental m.qb || 30000 < yardFundamental m.qc

/-- The window whose Spectrum Frame may complete now, by the phases valid on it: one that has ended, or the one
whose last cycle ends now and has not been taken as a Cycle Frame yet (R7, R9). -/
def windowReady (m : SpectrumInput) (s : State) : Option PhaseFlags :=
  match s.mu.owed with
  | some v => some v
  | none =>
    if passed s.clock s.mu.cycleEnd && s.mu.windowCount + 1 = windowCycles s.mu.freq && !s.mu.freqChange
        && !s.mu.spectrumTaken then
      some ⟨s.mu.windowValid.a && m.va.validLast, s.mu.windowValid.b && m.vb.validLast,
        s.mu.windowValid.c && m.vc.validLast⟩
    else none

/-- The Measurement Unit after a Spectrum Frame: latest of its kind, and its window taken (R7). -/
def takeSpectrum (g : SpectrumFrame) (u : MeasUnit) : MeasUnit :=
  { u with spectrum := some g, owed := none, spectrumTaken := if u.owed = none then true else u.spectrumTaken }

/-- Deliver a Spectrum Frame to its two consumers, in the order of the operand (R9, log entry 27). Both take it in one
command, so that no Cycle Frame, expiry or request comes between them, where R9 makes each arrival an event of its own
(DESIGN CHOICE, log entry 39). -/
def deliverSpectrum (g : SpectrumFrame) (learnerFirst : Bool) (s : State) : State :=
  if learnerFirst then s |> spectrumAtLearner g |> frameAtHs g else s |> frameAtHs g |> spectrumAtLearner g

/-- SPECTRUM_FRAME (R7, R8, R9). -/
def spectrumFrame (m : SpectrumInput) (learnerFirst : Bool) (s : State) : State :=
  match windowReady m s with
  | none => s
  | some v =>
    let g := formSpectrum s.clock v m
    setClampSeen (spectrumClamps v m) { s with mu := takeSpectrum g s.mu } |> deliverSpectrum g learnerFirst

/-- CYCLE_FRAME. -/
def execCycleFrame (m : CycleInput) (s : State) : Host.Outcome State Fault Refusal := .next (cycleFrame m s)

/-- SPECTRUM_FRAME. -/
def execSpectrumFrame (m : SpectrumInput) (learnerFirst : Bool) (s : State) : Host.Outcome State Fault Refusal :=
  .next (spectrumFrame m learnerFirst s)

end Sys2Proof.Machine
end

