-- ==== Sys2Proof/Machine/StepManager.lean ====
section
/-! DEFINITION. The Step Manager's own commands: position watches, the deadlines of chapter 4, and what service, settings and acknowledgement do to a step (R31, R34 to R37, R66 to R78). -/

namespace Sys2Proof.Machine

/-! ### Position watch (R31) -/

/-- A CLOSED step found OPEN at its watch expiry (Table 2-6). -/
def externalOpen (k : StepNo) (s : State) : State :=
  let r := s.stp k
  let t := putStep k { r with
    state := some (r.openStateAt s.clock), commanded := .opened, watch := none, openCount := countUp r.openCount } s
  setBreakerSeen (note .externalOpen .alarm (some k) none none none t) |> reportStep k

/-- A READY step found CLOSED at its watch expiry: close accounting without the last operation id (Table 2-6).
UNCOMMANDED-CLOSE joins before a REST-START of the same close, an order Table 2-6 and R72 leave open (DESIGN CHOICE,
log entry 11). -/
def uncommandedClose (k : StepNo) (s : State) : State :=
  let r := { s.stp k with state := some StepState.closed, commanded := Commanded.closed, watch := none }
  let t := putStep k (r.addClose s.clock (s.cfg k)) s
  setBreakerSeen (note .uncommandedClose .alarm (some k) none none none t) |> noteRest k (s.resting k) |> reportStep k

/-- The transition of Table 2-6 from a step's state and sensed position, the watch being gone already. A step found
at rest, or in a state without a watch, keeps its state. -/
def watchVerdict (k : StepNo) (s : State) : State :=
  match (s.stp k).state, (s.stp k).sensed with
  | some .closed, some .opened => externalOpen k s
  | some .closed, some .transit => lockStep .positionInvalid k s
  | some .closed, some .invalid => lockStep .positionInvalid k s
  | some .ready, some .closed => uncommandedClose k s
  | some .cooling, some .closed => lockStep .uncommanded k s
  | some .offline, some .closed => lockStep .uncommanded k s
  | some .ready, some .transit => lockStep .positionInvalid k s
  | some .ready, some .invalid => lockStep .positionInvalid k s
  | some .cooling, some .transit => lockStep .positionInvalid k s
  | some .cooling, some .invalid => lockStep .positionInvalid k s
  | some .offline, some .transit => lockStep .positionInvalid k s
  | some .offline, some .invalid => lockStep .positionInvalid k s
  | _, _ => s

/-- POSITION_WATCH_EXPIRY (R31). -/
def positionWatchExpiry (k : StepNo) (s : State) : State :=
  if due s.clock (s.stp k).watch then s |> putStep k { s.stp k with watch := none } |> watchVerdict k else s

/-! ### Deadlines of chapter 4 -/

/-- DISCHARGE_EXPIRY (R60, R68). -/
def dischargeExpiry (k : StepNo) (s : State) : State :=
  let r := s.stp k
  if due s.clock r.discharge then
    if r.state = some .cooling then
      s |> putStep k { r with discharge := none, state := some .ready } |> reportStep k |> retryAtReady k
    else putStep k { r with discharge := none } s
  else s

/-- CLOSE_LIST_LEAVE_EXPIRY (R71, R72). -/
def closeListLeaveExpiry (k : StepNo) (s : State) : State :=
  if due s.clock (s.stp k).leave then
    s |> putStep k ((s.stp k).leaveHead (s.cfg k)) |> noteRest k (s.resting k)
  else s

/-- MIN_CLOSED_EXPIRY (R74). -/
def minClosedExpiry (k : StepNo) (s : State) : State :=
  if due s.clock (s.stp k).minClosed then putStep k { s.stp k with minClosed := none } s else s

/-! ### Service (R35, R36) -/

/-- Whether the Step Manager lets a step's membership change (R35). -/
def serviceAllowed (k : StepNo) (add : Bool) (s : State) : Bool :=
  let r := s.stp k
  let idleLocked := r.state = some .locked && r.sensed = some .opened && !s.activeOn k
  if add then r.state = some .offline || (r.state = some .locked && !s.inService k)
  else r.state = some .cooling || r.state = some .ready || r.state = some .offline || idleLocked

/-- The steps whose membership differs between two sets. -/
def changed (old new : Comb) : Comb := old ^^^ new

/-- A step added to service moves (R36). -/
def addToService (k : StepNo) (s : State) : State :=
  let r := s.stp k
  if r.state = some .offline then s |> putStep k { r with state := some r.openState } |> reportStep k else s

/-- A step removed from service moves (R36). The commanded position is kept (log entry 28). -/
def removeFromService (k : StepNo) (s : State) : State :=
  let r := s.stp k
  if r.state = some .cooling ∨ r.state = some .ready then
    s |> putStep k { r with state := some .offline } |> reportStep k
  else if r.state = some .locked then
    s |> unlockStep k { r with state := some .offline } |> reportStep k
  else s

/-- Move the steps whose membership changes to a new in-service set (R36). They move in step-number order, and their
STEP-UNLOCK and OP-CANCELLED records join in that order, which R36 leaves open (DESIGN CHOICE, log entry 11). -/
def takeService (new : Comb) (s : State) : State :=
  let t := { s with settings := { s.settings with inService := new } }
  (stepsOf (changed s.settings.inService new)).foldl
    (fun u k => if mem new k then addToService k u else removeFromService k u) t

/-- No changing step is refused (R35). -/
def serviceTaken (new : Comb) (s : State) : Bool :=
  (stepsOf (changed s.settings.inService new)).all fun k => serviceAllowed k (mem new k) s

/-! ### Settings of one step (R19, R37, R71, R73, R96, R145) -/

/-- A step record at a change of its settings: pending contact changes are timed anew when CONTACT-FILTER changes
and `retime` holds (log entry 22), and the leave deadline follows REST-WINDOW. -/
def StepRec.reconfigured (now : Clock) (old new : StepSettings) (retime : Bool) (r : StepRec) : StepRec :=
  let move (c : Contacts) : Contacts :=
    if retime && old.contactFilter ≠ new.contactFilter then c.retimed now new.contactFilter else c
  { r with
    posA := move r.posA
    posB := move r.posB
    leave := if old.restWindow = new.restWindow then r.leave else leaveOf new.restWindow r.closeList }

/-- The sample of a step does not outlast a write of its settings (R96). -/
def sampleOnStepWrite (k : StepNo) (s : State) : State :=
  match s.vc.state with
  | .settling smp _ => if smp.step = k then discardSample .config s else s
  | .watch | .raiseTiming _ | .lowerTiming _ | .awaiting _ | .suspended => s

/-- A taken STEP-CONFIG (R37, R145). REST-START or REST-END joins before LEARN-DISCARDED, an order no rule gives
(DESIGN CHOICE, log entry 11). -/
def takeStepConfig (k : StepNo) (c : StepSettings) (s : State) : State :=
  let r := (s.stp k).reconfigured s.clock (s.cfg k) c true
  setCfg k c s
    |> putStep k { r with alarmFlag := false, alarmStage := .quiet, tripStage := .quiet }
    |> noteRest k (s.resting k)
    |> sampleOnStepWrite k

/-! ### Acknowledgement (R34, R142) -/

/-- Whether ACKNOWLEDGE of a step is taken (R34). -/
def stepAckTaken (k : StepNo) (s : State) : Bool :=
  (s.stp k).state ≠ some .locked || ((s.stp k).sensed = some .opened && !s.activeOn k)

/-- A taken ACKNOWLEDGE of a step (R34, R142). -/
def takeStepAck (k : StepNo) (s : State) : State :=
  let r := { s.stp k with alarmFlag := false }
  if r.state = some StepState.locked then
    s |> unlockStep k { r with
          state := some (if s.inService k then r.openState else .offline), commanded := .opened }
      |> reportStep k
  else putStep k r s

/-- POSITION_WATCH_EXPIRY. -/
def execPositionWatchExpiry (k : StepNo) (s : State) : Host.Outcome State Fault Refusal :=
  .next (positionWatchExpiry k s)

/-- DISCHARGE_EXPIRY. -/
def execDischargeExpiry (k : StepNo) (s : State) : Host.Outcome State Fault Refusal := .next (dischargeExpiry k s)

/-- CLOSE_LIST_LEAVE_EXPIRY. -/
def execCloseListLeaveExpiry (k : StepNo) (s : State) : Host.Outcome State Fault Refusal :=
  .next (closeListLeaveExpiry k s)

/-- MIN_CLOSED_EXPIRY. -/
def execMinClosedExpiry (k : StepNo) (s : State) : Host.Outcome State Fault Refusal := .next (minClosedExpiry k s)

end Sys2Proof.Machine
end

