-- ==== Sys2Proof/Machine/SettingsStore.lean ====
section
/-! DEFINITION. The Settings Store, YARD-CONFIG as a whole, and the two resets (R162, R173, R179 to R182, and the start values and warm restart of every chapter). -/

namespace Sys2Proof.Machine

/-! ### The two slots (R179) -/

/-- The newest valid slot (R179). -/
def Store.newest (t : Store) : Option SlotName :=
  match t.slotA.valid, t.slotB.valid with
  | false, false => none
  | true, false => some .a
  | false, true => some .b
  | true, true => if 0 ≤ (t.slotA.gen - t.slotB.gen).toInt then some .a else some .b

/-- A slot by its name. -/
def Store.slot (t : Store) : SlotName → Slot
  | .a => t.slotA
  | .b => t.slotB

/-- Write a slot. -/
def Store.withSlot (t : Store) (n : SlotName) (v : Slot) : Store :=
  match n with
  | .a => { t with slotA := v }
  | .b => { t with slotB := v }

/-- The slot a SAVE writes: not the newest valid one, and A when none is valid (R179). -/
def Store.target (t : Store) : SlotName :=
  match t.newest with
  | none => .a
  | some .a => .b
  | some .b => .a

/-- The generation a SAVE writes (R179). -/
def Store.nextGen (t : Store) : BitVec 32 :=
  match t.newest with
  | none => 1
  | some n => (t.slot n).gen + 1

/-- The image of the newest valid slot. -/
def Store.image (t : Store) : Option Settings := t.newest.map fun n => (t.slot n).image

/-- The longest a write to the store takes, ms (R179). -/
def saveLimitMs : Nat := 400

/-- A taken SAVE: the image of this moment is in flight to its slot, which is not valid while it is being written
(R179; log entry 23). -/
def takeSave (s : State) : State :=
  let t := s.store
  { s with store :=
      { t.withSlot t.target { t.slot t.target with valid := false } with
        saving := some ⟨t.target, s.settings, t.nextGen, addMs s.clock saveLimitMs⟩ } }

/-- SAVE_END: the store reads the slot back (R179). -/
def saveEnd (isMatch : Bool) (s : State) : State :=
  match s.store.saving with
  | none => s
  | some v =>
    if isMatch then
      note .saveDone .info none none (some (v.gen.toNat : Int)) none
        { s with store := { s.store.withSlot v.slot ⟨v.image, v.gen, true⟩ with saving := none } }
    else note .saveFail .alarm none none none none { s with store := { s.store with saving := none } }

/-- SAVE_END. -/
def execSaveEnd (isMatch : Bool) (s : State) : Host.Outcome State Fault Refusal := .next (saveEnd isMatch s)

/-! ### Taken YARD-CONFIG (R10, R63, R96, R127, R159, R162, R173, R176) -/

/-- A change of FREQUENCY waits for the cycle in progress (R10). -/
def wantFrequency (differs : Bool) (s : State) : State :=
  { s with mu := { s.mu with freqChange := s.mu.freqChange || differs } }

/-- The trip-time list's leave deadline after a change of RETRY-WINDOW (R159). -/
def retimeTrips (oldWindow newWindow : Nat) (s : State) : State :=
  if oldWindow = newWindow then s else setYp { s.yp with leave := tripLeave newWindow s.yp.times } s

/-- A taken YARD-CONFIG writes every setting at once, and each owner applies its own (R173). The records join in the
order BLOCK-ON or BLOCK-OFF, LEARN-DISCARDED, RES-DISCARDED, which no rule gives (DESIGN CHOICE, log entry 11). -/
def takeYardConfig (y : YardSettings) (s : State) : State :=
  let old := s.settings.yard
  { s with settings := { s.settings with yard := y } }
    |> wantFrequency (old.frequency ≠ y.frequency)
    |> noteBlock s.blocked
    |> (fun t => if old.selection = y.selection then t else discardSample .config t)
    |> (fun t => if old.frequency = y.frequency then t else discardWindow .config t)
    |> retimeTrips old.retryWindow y.retryWindow
    |> reformAttn

/-! ### Cold reset (R180, R181) -/

/-- Every block at its cold-reset values with settings as given; pins, the store's slots and the waiting commands
stay (R11, R18, R39, R64, R77, R100, R119, R134, R151, R163, R181). -/
def coldState (rate : BitVec 2) (settings : Settings) (invalid : Bool) (s : State) : State where
  pending := s.pending
  clock := 0
  mu := .start settings.yard.frequency
  sm := .start (Vector.ofFn fun k => .start (s.stp k).posA.raw (s.stp k).posB.raw settings.steps[k])
  sc := .start s.sc.block.raw
  vc := .start settings.control
  hs := .start
  rl := .start
  zeroing := none
  yp := .start
  li := .start rate settings.yard.attnClass invalid []
  store := { s.store with saving := none }
  settings := settings
  draws := s.draws
  fresh := s.fresh

/-- COLD_RESET: the newest valid image is loaded, with estimates clamped to its limits, or every setting takes its
default and STORE-INVALID is reported (R97, R180, R181). The ESTIMATE-CLAMPED records join in step-number order, which
R97 leaves open (DESIGN CHOICE, log entry 11). -/
def coldReset (rate : BitVec 2) (s : State) : State :=
  match s.store.image with
  | none => coldState rate .default true s
  | some image => allSteps.foldl clampStep (coldState rate image false s)

/-- COLD_RESET. -/
def execColdReset (rate : BitVec 2) (s : State) : Host.Outcome State Fault Refusal := .next (coldReset rate s)

/-! ### Warm restart (R182), block by block in the order of the chapters -/

/-- Yard and control settings reloaded; a frequency that differs waits for the cycle in progress (R10, R11). -/
def reloadMu (image : Settings) (s : State) : State :=
  { s with settings := { s.settings with control := image.control, yard := image.yard } }
    |> wantFrequency (s.settings.yard.frequency ≠ image.yard.frequency)

/-- One step's settings reloaded (R40, R78). -/
def reloadStep (image : Settings) (s : State) (k : StepNo) : State :=
  setCfg k image.steps[k] s |> putStep k ((s.stp k).reconfigured s.clock (s.cfg k) image.steps[k] false)

/-- Write one step's membership of the in-service set. -/
def setService (k : StepNo) (on : Bool) (s : State) : State :=
  { s with settings := { s.settings with
      inService := if on then s.settings.inService ||| bit k else without s.settings.inService (bit k) } }

/-- The stored membership of one step applied, or SERVICE-KEPT (R40). -/
def restoreService (image : Settings) (s : State) (k : StepNo) : State :=
  let on := mem image.inService k
  if s.inService k = on then s
  else if on then addToService k (setService k true s)
  else if serviceAllowed k false s then removeFromService k (setService k false s)
  else note .serviceKept .info (some k) none none none s

/-- The in-service set reloaded (R40). Before the build no step has a state and the set is taken as it is. The steps
move in step-number order, which R40 leaves open (DESIGN CHOICE, log entry 11). -/
def reloadService (image : Settings) (s : State) : State :=
  if s.sm.built then allSteps.foldl (restoreService image) s
  else { s with settings := { s.settings with inService := image.inService } }

/-- The Voltage Controller at a warm restart (R101): LEARN-DISCARDED joins before the ESTIMATE-CLAMPED records, and
these in step-number order, which the rules leave open (DESIGN CHOICE, log entry 11). -/
def restartVc (reload : Bool) (s : State) : State :=
  let t := discardSample .restart s
  let u := if reload then allSteps.foldl clampStep t else t
  refreshSupervision (setVc (if u.vc.mode = .auto then .watch else .suspended) u)

/-- The Harmonic Supervisor at a warm restart (R120). -/
def restartHs (image : Option Settings) (s : State) : State :=
  let t := clearAllFilters .restart s
  match image with
  | none => t
  | some i => { t with settings := { t.settings with filters := i.filters, enabled := i.enabled } }

/-- The stages of a step return to QUIET (R152). -/
def quietStages (s : State) (k : StepNo) : State :=
  putStep k { s.stp k with alarmStage := .quiet, tripStage := .quiet } s

/-- Yard Protection's stages return to QUIET (R164). -/
def quietYard (s : State) : State := setYp { s.yp with ov1 := .quiet, ov2 := .quiet, dead := .quiet } s

/-- Chapters 1 to 4 at a warm restart with a valid image (R11, R40, R65, R78). The chapters come in their order (R182);
the REST-START and REST-END records of chapter 4 join in step-number order, which no rule gives (DESIGN CHOICE,
log entry 11). -/
def reloadYard (image : Settings) (s : State) : State :=
  let t := reloadService image (allSteps.foldl (reloadStep image) (reloadMu image s))
  allSteps.foldl (fun u k => noteRest k (s.resting k) u) (noteBlock s.blocked t)

/-- Chapters 5 to 10 at a warm restart (R101, R120, R135, R152, R164, R176). -/
def restartBlocks (image : Option Settings) (oldWindow : Nat) (s : State) : State :=
  let t := s |> restartVc image.isSome |> restartHs image |> discardWindow .restart |> abortZero .restart
  allSteps.foldl quietStages t
    |> quietYard
    |> (fun u => retimeTrips oldWindow u.settings.yard.retryWindow u)
    |> reformAttn

/-- The warm restart of every block, after WARM-START (R180, R182). -/
def warmRestart (s : State) : State :=
  match s.store.image with
  | none =>
    setStoreInvalid (note .storeInvalid .alarm none none none none s)
      |> restartBlocks none s.settings.yard.retryWindow
  | some image => reloadYard image s |> restartBlocks (some image) s.settings.yard.retryWindow

end Sys2Proof.Machine
end

