-- ==== Sys2Proof/WellFormed.lean ====
section
/-! DEFINITION. Which commands are well formed: the checks a command meets before it can stand for an event of the device. -/

namespace Sys2Proof

/-- A frame's payload is 0 to 250 bytes long (Table 10-1). -/
def payloadOk (payload : List Byte) : Bool := payload.length ≤ 250

/-- The request kinds of Table 10-4, 0x01 to 0x15. -/
def knownKind (kind : Byte) : Bool := 1 ≤ kind.toNat && kind.toNat ≤ 0x15

/-- An angle lies in one turn: 0 to 359 999 thousandths of a degree. -/
def PhaseInput.wf (p : PhaseInput) : Bool := p.angle < 360000

/-- Every phase angle of the cycle lies in one turn. -/
def CycleInput.wf (m : CycleInput) : Bool := m.va.wf && m.vb.wf && m.vc.wf

/-- Well-formed commands: payloads fit a frame, angles lie in one turn, and UNKNOWN_REQUEST names no kind of
Table 10-4. Step, filter and combination numbers are in range by their types. -/
def Instr.wf : Instr → Bool
  | .coldReset _ => true
  | .cycleFrame m => m.wf
  | .spectrumFrame _ _ => true
  | .rawContactChange _ _ _ => true
  | .contactFilterExpiry _ _ => true
  | .establishLimit => true
  | .blockInputChange _ => true
  | .blockFilterExpiry => true
  | .positionWatchExpiry _ => true
  | .dischargeExpiry _ => true
  | .closeListLeaveExpiry _ => true
  | .minClosedExpiry _ => true
  | .inrushHoldExpiry _ => true
  | .pulseDeadlineExpiry _ _ => true
  | .operationTimeout => true
  | .channelRestExpiry => true
  | .retryDeadlineExpiry _ => true
  | .raiseExpiry => true
  | .lowerExpiry => true
  | .settleExpiry => true
  | .supervisionExpiry => true
  | .filterPickupExpiry _ => true
  | .filterDropoutExpiry _ => true
  | .freshnessExpiry => true
  | .resSettleExpiry => true
  | .entryExpiry _ => true
  | .unbAlarmPickupExpiry _ => true
  | .unbTripPickupExpiry _ => true
  | .ov1PickupExpiry => true
  | .ov1RepeatExpiry => true
  | .ov2PickupExpiry => true
  | .deadLinePickupExpiry => true
  | .restoreExpiry => true
  | .tripTimeLeaveExpiry => true
  | .waitTimeout => true
  | .interByteTimeout => true
  | .discardedFrame => true
  | .replySent => true
  | .unknownRequest kind _ p => payloadOk p && !knownKind kind
  | .status _ p => payloadOk p
  | .measure _ p => payloadOk p
  | .stepRead _ p => payloadOk p
  | .stepConfig _ p => payloadOk p
  | .service _ p => payloadOk p
  | .operate _ p => payloadOk p
  | .mode _ p => payloadOk p
  | .controlConfig _ p => payloadOk p
  | .yardConfig _ p => payloadOk p
  | .filterRead _ p => payloadOk p
  | .filterConfig _ p => payloadOk p
  | .filterEnable _ p => payloadOk p
  | .vetoRead _ p => payloadOk p
  | .vetoWrite _ p => payloadOk p
  | .zero _ p => payloadOk p
  | .zeroCancel _ p => payloadOk p
  | .acknowledgeStep _ p => payloadOk (0 :: p)
  | .acknowledgeFilter _ p => payloadOk (1 :: p)
  | .acknowledgeYard _ p => payloadOk (2 :: p)
  | .events _ p => payloadOk p
  | .wait _ p => payloadOk p
  | .save _ p => payloadOk p
  | .saveEnd _ => true
  | .restart _ p => payloadOk p
  | .byteReceived _ => true

end Sys2Proof
end

