-- ==== Sys2Proof/Machine/LinkInterface.lean ====
section
/-! DEFINITION. The Link Interface: the receiver, the handling of every request kind and the held WAIT (R166 to R182, and the request rules of the owners). -/

namespace Sys2Proof.Machine

/-! ### Handling of a frame (R81, R167, R169) -/

/-- The reply list has room for a reply: four places, one of them reserved while a WAIT is held (R167). -/
def hasRoom (s : State) : Bool := s.li.replies.length + (if s.li.held = none then 0 else 1) < 4

/-- Form the reply to a request (R165). -/
def answer (kind tag : Byte) (r : Result) (body : ReplyBody) (s : State) : State :=
  sendReply ⟨replyKind kind, tag, r, body⟩ s

/-- A well-formed frame of a kind of Table 10-4: without room it is discarded; otherwise the Voltage Controller is
told of it, its length is tested, and its owner forms the reply (R81, R166, R167). -/
def handle (kind : Byte) (len : Nat) (owner : List Byte → State → State) (tag : Byte) (p : List Byte) (s : State) :
    State :=
  if !hasRoom s then s
  else if p.length = len then owner p (refreshSupervision s)
  else answer kind tag .malformed .empty (refreshSupervision s)

/-- A well-formed frame of no known kind (R165, R167). -/
def handleUnknown (kind tag : Byte) (s : State) : State :=
  if !hasRoom s then s else answer kind tag .unknown .empty (refreshSupervision s)

/-- A SAVE is in flight (R169). -/
def saving (s : State) : Bool := s.store.saving ≠ none

/-! ### Reads (R118, R121, R170, R171) -/

/-- The channel state STATUS reports (R42). -/
def channelState (s : State) : ChannelState :=
  match s.sc.active with
  | some a => .active a.op.id
  | none => if s.sc.rest = none then .idle else .channelRest

/-- The contents of a STATUS reply (R170). -/
def statusReport (s : State) : StatusReport where
  mode := s.vc.mode
  vcState := s.vc.state
  band := s.vc.band
  urgentHigh := s.vc.urgentHigh
  vc := s.vc.vc
  saturated := s.vc.saturated
  frame := s.vc.frame
  trip := s.yp.trip
  ov1 := s.yp.ov1
  ov2 := s.yp.ov2
  dead := s.yp.dead
  tripTimes := s.yp.times.length
  inhibitors := s.inhibitors
  harmBlock := s.hs.block
  vtLoss := s.vtLoss
  built := s.sm.built
  energized := s.energized
  insertion := s.sm.insertion
  insertionLength := s.sm.insertion.length
  steps := s.sm.steps.map fun r => ⟨r.state, r.locks, r.alarmFlag⟩
  channel := channelState s
  waiting := s.sc.waiting.length
  zeroing := s.zeroing
  events := s.li.events.length
  gap := s.li.gap
  attn := s.li.attn
  waitHeld := s.li.held ≠ none
  saving := saving s
  sticky := s.li.sticky

/-- Clear the sticky flags a reply has reported (R170, R178). -/
def takeSticky (s : State) : State := { s with li := { s.li with sticky := .none } }

/-- STATUS (R170). -/
def statusOwner (tag : Byte) (p : List Byte) (s : State) : State :=
  match flagOfByte (byteAt p 0) with
  | none => answer 0x01 tag .range .empty s
  | some take =>
    let t := if take then takeSticky s else s
    answer 0x01 tag .ok (.status (statusReport s)) t

/-- MEASURE (R171). -/
def measureOwner (tag : Byte) (_p : List Byte) (s : State) : State :=
  answer 0x02 tag .ok (.measure s.mu.cycle s.mu.spectrum) s

/-- The zeroing in flight when it is of a step. Section 8.5 has STEP-READ report the zeroing in flight; that the report
of another step does not carry it is the model's reading (DESIGN CHOICE, log entry 38). -/
def zeroingOf (k : StepNo) (s : State) : Option Zeroing := s.zeroing.filter fun z => z.step = k

/-- The contents of a STEP-READ reply (R171). -/
def stepReport (k : StepNo) (s : State) : StepReport :=
  ⟨k, s.inService k, s.stp k, s.cfg k, s.resting k, zeroingOf k s⟩

/-- STEP-READ (R39, R171). -/
def stepReadOwner (tag : Byte) (p : List Byte) (s : State) : State :=
  if !s.sm.built then answer 0x03 tag .busy .empty s
  else
    match stepOfByte (byteAt p 0) with
    | none => answer 0x03 tag .range .empty s
    | some k => answer 0x03 tag .ok (.step (stepReport k s)) s

/-- FILTER-READ (R118). -/
def filterReadOwner (tag : Byte) (p : List Byte) (s : State) : State :=
  match filterOfByte (byteAt p 0) with
  | none => answer 0x0A tag .range .empty s
  | some f => answer 0x0A tag .ok (.filter ⟨f, s.fcfg f, s.isEnabled f, s.filt f⟩) s

/-- The learning window's phase, operation id and combination (R121). -/
def windowReport : Window → WindowPhase × Option Byte × Option Comb
  | .none => (.none, none, none)
  | .started w => (.started, some w.id, none)
  | .settling w c _ => (.settling, some w.id, some c)
  | .afterWait w c => (.afterWait, some w.id, some c)

/-- The contents of a VETO-READ reply: the count is clamped to 1 to 16 and then to what the table still holds
(R121, R171). -/
def vetoReport (first count : Nat) (s : State) : VetoReport :=
  let n := min (clampNat 1 16 count) (64 - first)
  let w := windowReport s.rl.window
  ⟨first, (s.rl.table.toList.drop first).take n, w.1, w.2.1, w.2.2⟩

/-- VETO-READ (R121, R171). -/
def vetoReadOwner (tag : Byte) (p : List Byte) (s : State) : State :=
  if 64 ≤ byteAt p 0 then answer 0x0D tag .range .empty s
  else answer 0x0D tag .ok (.veto (vetoReport (byteAt p 0) (byteAt p 1) s)) s

/-! ### Settings writes (R169) -/

/-- The order of STEP-CONFIG's tests is BUSY, RANGE of the step, STATE, RANGE of the values (R37, R169). -/
def stepConfigOwner (tag : Byte) (p : List Byte) (s : State) : State :=
  if saving s || !s.sm.built then answer 0x04 tag .busy .empty s
  else
    match stepOfByte (byteAt p 0) with
    | none => answer 0x04 tag .range .empty s
    | some k =>
      if (s.stp k).state ≠ some .offline then answer 0x04 tag .state .empty s
      else
        match parseStep s.settings.control.dvMin s.settings.control.dvMax p with
        | none => answer 0x04 tag .range .empty s
        | some c => answer 0x04 tag .ok .empty (takeStepConfig k c s)

/-- SERVICE (R35, R36). -/
def serviceOwner (tag : Byte) (p : List Byte) (s : State) : State :=
  if saving s || !s.sm.built then answer 0x05 tag .busy .empty s
  else
    match formOfByte (byteAt p 0), combOfByte (byteAt p 1) with
    | some f, some list =>
      let new := f.apply s.settings.inService list
      if serviceTaken new s then answer 0x05 tag .ok .empty (takeService new s)
      else answer 0x05 tag .state .empty s
    | _, _ => answer 0x05 tag .range .empty s

/-- CONTROL-CONFIG (R99). -/
def controlConfigOwner (tag : Byte) (p : List Byte) (s : State) : State :=
  if saving s then answer 0x08 tag .busy .empty s
  else
    match parseControl p with
    | none => answer 0x08 tag .range .empty s
    | some c => answer 0x08 tag .ok .empty (takeControlConfig c s)

/-- The order of YARD-CONFIG's tests is BUSY, RANGE, and the STATE test of a tripped yard (R162, R169). -/
def yardConfigOwner (tag : Byte) (p : List Byte) (s : State) : State :=
  if saving s then answer 0x09 tag .busy .empty s
  else
    match parseYard p with
    | none => answer 0x09 tag .range .empty s
    | some y =>
      if !s.yp.trip.isNormal && !y.sameProtection s.settings.yard then answer 0x09 tag .state .empty s
      else answer 0x09 tag .ok .empty (takeYardConfig y s)

/-- FILTER-CONFIG, with the order of tests of R118. -/
def filterConfigOwner (tag : Byte) (p : List Byte) (s : State) : State :=
  if saving s then answer 0x0B tag .busy .empty s
  else
    match filterOfByte (byteAt p 0) with
    | none => answer 0x0B tag .range .empty s
    | some f =>
      if s.isEnabled f then answer 0x0B tag .state .empty s
      else
        match parseFilter p with
        | none => answer 0x0B tag .range .empty s
        | some c => answer 0x0B tag .ok .empty (takeFilterConfig f c s)

/-- FILTER-ENABLE (R117). -/
def filterEnableOwner (tag : Byte) (p : List Byte) (s : State) : State :=
  if saving s then answer 0x0C tag .busy .empty s
  else
    match formOfByte (byteAt p 0) with
    | none => answer 0x0C tag .range .empty s
    | some f =>
      answer 0x0C tag .ok .empty
        (takeFilterEnable (f.apply s.settings.enabled (BitVec.ofNat 8 (byteAt p 1))) s)

/-- SAVE (R179). -/
def saveOwner (tag : Byte) (_p : List Byte) (s : State) : State :=
  if saving s then answer 0x14 tag .busy .empty s else answer 0x14 tag .accepted .empty (takeSave s)

/-- The Switching Channel reports itself occupied (R65). -/
def occupied (s : State) : Bool :=
  s.sc.active ≠ none || s.sc.waiting ≠ [] || allSteps.any fun k => s.sc.retries[k] ≠ none

/-- A held WAIT is answered CANCELLED (R177, R182). -/
def cancelWait (s : State) : State :=
  match s.li.held with
  | none => s
  | some w => answer waitKind w.tag .cancelled .empty { s with li := { s.li with held := none } }

/-- RESTART: the held WAIT, the reply, WARM-START and the warm restart, in this order (R182). -/
def restartOwner (tag : Byte) (_p : List Byte) (s : State) : State :=
  if saving s || occupied s then answer 0x15 tag .busy .empty s
  else
    s |> cancelWait |> answer 0x15 tag .ok .empty |> note .warmStart .info none none none none |> warmRestart

/-! ### Commands of the host -/

/-- The reply to OPERATE by the answer to its request (R172). -/
def operateReply : Answer → Result × ReplyBody
  | .queued id => (.accepted, .operation id)
  | .merged id => (.accepted, .operation id)
  | .absorbed id => (.ok, .operation id)
  | .takenOver id => (.ok, .operation id)
  | .conflict => (.conflict, .empty)
  | .full => (.full, .empty)

/-- The request of an OPERATE and its reply, formed before the start attempt that may follow (R172). -/
def operate (tag : Byte) (kind : OpKind) (k : StepNo) (s : State) : State :=
  let t := request (oneStep kind k .directed .directed .li) k s
  serve (answer 0x06 tag (operateReply t.1).1 (operateReply t.1).2 t.2)

/-- OPERATE (R80, R172). -/
def operateOwner (tag : Byte) (p : List Byte) (s : State) : State :=
  if !s.sm.built then answer 0x06 tag .busy .empty s
  else
    match stepOfByte (byteAt p 0), enumOfByte [OpKind.close, .open_] (byteAt p 1) with
    | some k, some kind =>
      if kind = .close ∧ s.vc.mode = .auto then answer 0x06 tag .mode .empty s else operate tag kind k s
    | _, _ => answer 0x06 tag .range .empty s

/-- MODE (R79). -/
def modeOwner (tag : Byte) (p : List Byte) (s : State) : State :=
  match modeOfByte (byteAt p 0) with
  | none => answer 0x07 tag .range .empty s
  | some m => answer 0x07 tag .ok .empty (changeMode m s)

/-- VETO-WRITE (R132). -/
def vetoWriteOwner (tag : Byte) (p : List Byte) (s : State) : State :=
  match combOfByte (byteAt p 0), enumOfByte [EntryState.clear, .suspect, .vetoed, .pinned] (byteAt p 1) with
  | some c, some st =>
    if c = 0 ∨ st = .suspect then answer 0x0E tag .range .empty s
    else answer 0x0E tag .ok .empty (takeVetoWrite c st s)
  | _, _ => answer 0x0E tag .range .empty s

/-- ZERO: BUSY before the build, RANGE of the step, then the tests of R146 in their order (log entry 20). -/
def zeroOwner (tag : Byte) (p : List Byte) (s : State) : State :=
  if !s.sm.built then answer 0x0F tag .busy .empty s
  else
    match stepOfByte (byteAt p 0) with
    | none => answer 0x0F tag .range .empty s
    | some k =>
      match zeroRefusal k s with
      | some r => answer 0x0F tag r .empty s
      | none => answer 0x0F tag .accepted .empty (takeZero k (clampNat 16 1024 (wordAt p 1)) s)

/-- ZERO-CANCEL (R150). -/
def zeroCancelOwner (tag : Byte) (_p : List Byte) (s : State) : State :=
  answer 0x10 tag .ok .empty (abortZero .cancelled s)

/-- ACKNOWLEDGE of a step by its number (R34). -/
def ackStepOwner (tag : Byte) (number : Nat) (s : State) : State :=
  if !s.sm.built then answer 0x11 tag .busy .empty s
  else
    match stepOfByte number with
    | none => answer 0x11 tag .range .empty s
    | some k =>
      if stepAckTaken k s then answer 0x11 tag .ok .empty (takeStepAck k s)
      else answer 0x11 tag .condition .empty s

/-- ACKNOWLEDGE of a filter by its number (R109). -/
def ackFilterOwner (tag : Byte) (number : Nat) (s : State) : State :=
  match filterOfByte number with
  | none => answer 0x11 tag .range .empty s
  | some f =>
    let t := ackFilter f s
    answer 0x11 tag (if t.1 then .ok else .condition) .empty t.2

/-- ACKNOWLEDGE of the yard (R161). -/
def ackYardOwner (tag : Byte) (s : State) : State :=
  let t := ackYard s
  answer 0x11 tag t.1 .empty t.2

/-- ACKNOWLEDGE by its target byte: STEP, FILTER, YARD (Table 10-2). -/
def ackOwner (tag : Byte) (p : List Byte) (s : State) : State :=
  match byteAt p 0 with
  | 0 => ackStepOwner tag (byteAt p 1) s
  | 1 => ackFilterOwner tag (byteAt p 1) s
  | 2 => ackYardOwner tag s
  | _ => answer 0x11 tag .range .empty s

/-! ### Events and WAIT (R175 to R177) -/

/-- Remove the oldest records and clear the gap flag (R175, R176). -/
def dropEvents (n : Nat) (s : State) : State :=
  reformAttn { s with li := { s.li with events := s.li.events.drop n, gap := false } }

/-- EVENTS (R175). -/
def eventsOwner (tag : Byte) (p : List Byte) (s : State) : State :=
  let n := clampNat 1 8 (byteAt p 0)
  let out := s.li.events.take n
  answer 0x12 tag .ok (.events out out.length s.li.gap (s.li.events.drop n).length) (dropEvents n s)

/-- A mask with some class and no bit above 2 (R177). -/
def maskOfByte (b : Nat) : Option (BitVec 3) := if 1 ≤ b ∧ b ≤ 7 then some (BitVec.ofNat 3 b) else none

/-- WAIT (R177). -/
def waitOwner (tag : Byte) (p : List Byte) (s : State) : State :=
  match maskOfByte (byteAt p 0) with
  | none => answer 0x13 tag .range .empty s
  | some mask =>
    if s.li.held ≠ none then answer 0x13 tag .busy .empty s
    else
      match s.li.events.find? fun e => inMask mask e.cls with
      | some e => answer 0x13 tag .event (.waitEvent e.kind e.cls e.time s.li.events.length) s
      | none =>
        { s with li := { s.li with
            held := some ⟨tag, mask, addSec s.clock (clampNat 1 600 (wordAt p 1))⟩ } }

/-- WAIT_TIMEOUT (R177). -/
def waitTimeout (s : State) : State :=
  match s.li.held with
  | none => s
  | some w =>
    if passed s.clock w.deadline then
      answer waitKind w.tag .timeout (.waitTimeout s.li.events.length) { s with li := { s.li with held := none } }
    else s

/-! ### Every request kind (Table 10-4) -/

/-- STATUS. -/
def status (tag : Byte) (p : List Byte) : State → State := handle 0x01 1 (statusOwner tag) tag p
/-- MEASURE. -/
def measure (tag : Byte) (p : List Byte) : State → State := handle 0x02 0 (measureOwner tag) tag p
/-- STEP-READ. -/
def stepRead (tag : Byte) (p : List Byte) : State → State := handle 0x03 1 (stepReadOwner tag) tag p
/-- STEP-CONFIG. -/
def stepConfig (tag : Byte) (p : List Byte) : State → State := handle 0x04 41 (stepConfigOwner tag) tag p
/-- SERVICE. -/
def service (tag : Byte) (p : List Byte) : State → State := handle 0x05 2 (serviceOwner tag) tag p
/-- OPERATE. -/
def operateFrame (tag : Byte) (p : List Byte) : State → State := handle 0x06 2 (operateOwner tag) tag p
/-- MODE. -/
def mode (tag : Byte) (p : List Byte) : State → State := handle 0x07 1 (modeOwner tag) tag p
/-- CONTROL-CONFIG. -/
def controlConfig (tag : Byte) (p : List Byte) : State → State := handle 0x08 31 (controlConfigOwner tag) tag p
/-- YARD-CONFIG. -/
def yardConfig (tag : Byte) (p : List Byte) : State → State := handle 0x09 38 (yardConfigOwner tag) tag p
/-- FILTER-READ. -/
def filterRead (tag : Byte) (p : List Byte) : State → State := handle 0x0A 1 (filterReadOwner tag) tag p
/-- FILTER-CONFIG. -/
def filterConfig (tag : Byte) (p : List Byte) : State → State := handle 0x0B 17 (filterConfigOwner tag) tag p
/-- FILTER-ENABLE. -/
def filterEnable (tag : Byte) (p : List Byte) : State → State := handle 0x0C 2 (filterEnableOwner tag) tag p
/-- VETO-READ. -/
def vetoRead (tag : Byte) (p : List Byte) : State → State := handle 0x0D 2 (vetoReadOwner tag) tag p
/-- VETO-WRITE. -/
def vetoWrite (tag : Byte) (p : List Byte) : State → State := handle 0x0E 2 (vetoWriteOwner tag) tag p
/-- ZERO. -/
def zero (tag : Byte) (p : List Byte) : State → State := handle 0x0F 3 (zeroOwner tag) tag p
/-- ZERO-CANCEL. -/
def zeroCancel (tag : Byte) (p : List Byte) : State → State := handle 0x10 0 (zeroCancelOwner tag) tag p
/-- ACKNOWLEDGE. -/
def acknowledge (tag : Byte) (p : List Byte) : State → State := handle 0x11 2 (ackOwner tag) tag p
/-- EVENTS. -/
def events (tag : Byte) (p : List Byte) : State → State := handle 0x12 1 (eventsOwner tag) tag p
/-- WAIT. -/
def wait (tag : Byte) (p : List Byte) : State → State := handle 0x13 3 (waitOwner tag) tag p
/-- SAVE. -/
def save (tag : Byte) (p : List Byte) : State → State := handle 0x14 0 (saveOwner tag) tag p
/-- RESTART. -/
def restart (tag : Byte) (p : List Byte) : State → State := handle 0x15 0 (restartOwner tag) tag p

/-- A well-formed frame by its kind (R167, Table 10-4). -/
def handleFrame (kind tag : Byte) (p : List Byte) (s : State) : State :=
  match kind.toNat with
  | 0x01 => status tag p s
  | 0x02 => measure tag p s
  | 0x03 => stepRead tag p s
  | 0x04 => stepConfig tag p s
  | 0x05 => service tag p s
  | 0x06 => operateFrame tag p s
  | 0x07 => mode tag p s
  | 0x08 => controlConfig tag p s
  | 0x09 => yardConfig tag p s
  | 0x0A => filterRead tag p s
  | 0x0B => filterConfig tag p s
  | 0x0C => filterEnable tag p s
  | 0x0D => vetoRead tag p s
  | 0x0E => vetoWrite tag p s
  | 0x0F => zero tag p s
  | 0x10 => zeroCancel tag p s
  | 0x11 => acknowledge tag p s
  | 0x12 => events tag p s
  | 0x13 => wait tag p s
  | 0x14 => save tag p s
  | 0x15 => restart tag p s
  | _ => handleUnknown kind tag s

/-! ### The receiver (R166) -/

/-- Milliseconds from the end of one byte after which the next comes too late (log entry 16). -/
def interByteMs : Nat := 21

/-- Write the receiver; a frame in progress holds the inter-byte limit, HUNT holds none (R166). -/
def setRx (r : Receiver) (s : State) : State :=
  { s with li := { s.li with rx := r, rxLimit := if r = .hunt then none else some (addMs s.clock interByteMs) } }

/-- The receiver after length, kind and tag (R166). -/
def afterHeader (n kind tag : Byte) : Receiver := if n = 0 then .check n kind tag [] none else .payload n kind tag []

/-- One byte of HEADER (R166). -/
def takeHeader (taken : List Byte) (b : Byte) : Receiver :=
  match taken with
  | [] => if 250 < b.toNat then .hunt else .header [b]
  | [n] => .header [n, b]
  | [n, kind] => afterHeader n kind b
  | _ => .hunt

/-- The check of a frame as it was received matches (R165). -/
def checkMatches (n kind tag : Byte) (payload : List Byte) (hi lo : Byte) : Bool :=
  checkBytes (crc16 (n :: kind :: tag :: payload)) = [hi, lo]

/-- One byte at the receiver (R166). -/
def takeByte (b : Byte) (s : State) : State :=
  match s.li.rx with
  | .hunt => if b = 0xA5 then setRx (.header []) s else s
  | .header taken => setRx (takeHeader taken b) s
  | .payload n kind tag taken =>
    if (taken ++ [b]).length < n.toNat then setRx (.payload n kind tag (taken ++ [b])) s
    else setRx (.check n kind tag (taken ++ [b]) none) s
  | .check n kind tag payload none => setRx (.check n kind tag payload (some b)) s
  | .check n kind tag payload (some hi) =>
    if checkMatches n kind tag payload hi b then handleFrame kind tag payload (setRx .hunt s) else setRx .hunt s

/-- INTER_BYTE_TIMEOUT (R166). -/
def interByteTimeout (s : State) : State := if due s.clock s.li.rxLimit then setRx .hunt s else s

/-- BYTE_RECEIVED: a byte that comes too late finds the frame in progress discarded (R166). -/
def byteReceived (b : Byte) (s : State) : State := takeByte b (interByteTimeout s)

/-- DISCARDED_FRAME: the second check byte does not match, or the reply list has no room (R166). -/
def discardedFrame (s : State) : State :=
  match s.li.rx with
  | .check _ _ _ _ _ => setRx .hunt s
  | .hunt | .header _ | .payload _ _ _ _ => s

/-- REPLY_SENT: the reply formed first has left the list (R165, R167). -/
def replySent (s : State) : State := { s with li := { s.li with replies := s.li.replies.drop 1 } }

/-- UNKNOWN_REQUEST. A kind of Table 10-4 is not unknown, and changes nothing here. -/
def unknownRequest (kind tag : Byte) (s : State) : State := if knownKind kind then s else handleUnknown kind tag s

/-- WAIT_TIMEOUT. -/
def execWaitTimeout (s : State) : Host.Outcome State Fault Refusal := .next (waitTimeout s)

/-- INTER_BYTE_TIMEOUT. -/
def execInterByteTimeout (s : State) : Host.Outcome State Fault Refusal := .next (interByteTimeout s)

/-- DISCARDED_FRAME. -/
def execDiscardedFrame (s : State) : Host.Outcome State Fault Refusal := .next (discardedFrame s)

/-- REPLY_SENT. -/
def execReplySent (s : State) : Host.Outcome State Fault Refusal := .next (replySent s)

/-- UNKNOWN_REQUEST. The payload is not read. -/
def execUnknownRequest (kind tag : Byte) (_payload : List Byte) (s : State) : Host.Outcome State Fault Refusal :=
  .next (unknownRequest kind tag s)

/-- STATUS. -/
def execStatus (tag : Byte) (payload : List Byte) (s : State) : Host.Outcome State Fault Refusal :=
  .next (status tag payload s)

/-- MEASURE. -/
def execMeasure (tag : Byte) (payload : List Byte) (s : State) : Host.Outcome State Fault Refusal :=
  .next (measure tag payload s)

/-- STEP_READ. -/
def execStepRead (tag : Byte) (payload : List Byte) (s : State) : Host.Outcome State Fault Refusal :=
  .next (stepRead tag payload s)

/-- STEP_CONFIG. -/
def execStepConfig (tag : Byte) (payload : List Byte) (s : State) : Host.Outcome State Fault Refusal :=
  .next (stepConfig tag payload s)

/-- SERVICE. -/
def execService (tag : Byte) (payload : List Byte) (s : State) : Host.Outcome State Fault Refusal :=
  .next (service tag payload s)

/-- OPERATE. -/
def execOperate (tag : Byte) (payload : List Byte) (s : State) : Host.Outcome State Fault Refusal :=
  .next (operateFrame tag payload s)

/-- MODE. -/
def execMode (tag : Byte) (payload : List Byte) (s : State) : Host.Outcome State Fault Refusal :=
  .next (mode tag payload s)

/-- CONTROL_CONFIG. -/
def execControlConfig (tag : Byte) (payload : List Byte) (s : State) : Host.Outcome State Fault Refusal :=
  .next (controlConfig tag payload s)

/-- YARD_CONFIG. -/
def execYardConfig (tag : Byte) (payload : List Byte) (s : State) : Host.Outcome State Fault Refusal :=
  .next (yardConfig tag payload s)

/-- FILTER_READ. -/
def execFilterRead (tag : Byte) (payload : List Byte) (s : State) : Host.Outcome State Fault Refusal :=
  .next (filterRead tag payload s)

/-- FILTER_CONFIG. -/
def execFilterConfig (tag : Byte) (payload : List Byte) (s : State) : Host.Outcome State Fault Refusal :=
  .next (filterConfig tag payload s)

/-- FILTER_ENABLE. -/
def execFilterEnable (tag : Byte) (payload : List Byte) (s : State) : Host.Outcome State Fault Refusal :=
  .next (filterEnable tag payload s)

/-- VETO_READ. -/
def execVetoRead (tag : Byte) (payload : List Byte) (s : State) : Host.Outcome State Fault Refusal :=
  .next (vetoRead tag payload s)

/-- VETO_WRITE. -/
def execVetoWrite (tag : Byte) (payload : List Byte) (s : State) : Host.Outcome State Fault Refusal :=
  .next (vetoWrite tag payload s)

/-- ZERO. -/
def execZero (tag : Byte) (payload : List Byte) (s : State) : Host.Outcome State Fault Refusal :=
  .next (zero tag payload s)

/-- ZERO_CANCEL. -/
def execZeroCancel (tag : Byte) (payload : List Byte) (s : State) : Host.Outcome State Fault Refusal :=
  .next (zeroCancel tag payload s)

/-- EVENTS. -/
def execEvents (tag : Byte) (payload : List Byte) (s : State) : Host.Outcome State Fault Refusal :=
  .next (events tag payload s)

/-- WAIT. -/
def execWait (tag : Byte) (payload : List Byte) (s : State) : Host.Outcome State Fault Refusal :=
  .next (wait tag payload s)

/-- SAVE. -/
def execSave (tag : Byte) (payload : List Byte) (s : State) : Host.Outcome State Fault Refusal :=
  .next (save tag payload s)

/-- RESTART. -/
def execRestart (tag : Byte) (payload : List Byte) (s : State) : Host.Outcome State Fault Refusal :=
  .next (restart tag payload s)

/-- ACKNOWLEDGE_STEP: the rest of a payload whose target byte is 0. -/
def execAcknowledgeStep (tag : Byte) (rest : List Byte) (s : State) : Host.Outcome State Fault Refusal :=
  .next (acknowledge tag (0 :: rest) s)

/-- ACKNOWLEDGE_FILTER: the rest of a payload whose target byte is 1. -/
def execAcknowledgeFilter (tag : Byte) (rest : List Byte) (s : State) : Host.Outcome State Fault Refusal :=
  .next (acknowledge tag (1 :: rest) s)

/-- ACKNOWLEDGE_YARD: the rest of a payload whose target byte is 2. -/
def execAcknowledgeYard (tag : Byte) (rest : List Byte) (s : State) : Host.Outcome State Fault Refusal :=
  .next (acknowledge tag (2 :: rest) s)

/-- BYTE_RECEIVED. -/
def execByteReceived (b : Byte) (s : State) : Host.Outcome State Fault Refusal := .next (byteReceived b s)

end Sys2Proof.Machine
end

