-- ==== Sys2Proof/Machine/SwitchingChannel.lean ====
section
/-! DEFINITION. The deadlines of the Switching Channel: pulses, the operation timeout, channel rest and retries (R54, R56, R60, R62). -/

namespace Sys2Proof.Machine

/-- A coil output released (R54). -/
def Coils.release (o : Coils) : Coil → Coils
  | .closeCoil => { o with close := none }
  | .openCoil => { o with open_ := none }

/-- The pulse deadline of a coil output. -/
def Coils.deadline (o : Coils) : Coil → Option Clock
  | .closeCoil => o.close
  | .openCoil => o.open_

/-- PULSE_DEADLINE_EXPIRY (R54). -/
def pulseDeadlineExpiry (k : StepNo) (c : Coil) (s : State) : State :=
  if due s.clock (s.sc.coils[k].deadline c) then
    { s with sc := { s.sc with coils := s.sc.coils.set k (s.sc.coils[k].release c) } }
  else s

/-- OPERATION_TIMEOUT (R56): a record whose steps have all arrived ends with success instead. -/
def operationTimeout (s : State) : State :=
  match s.sc.active with
  | none => s
  | some a =>
    if passed s.clock a.timeout then
      if a.missing = 0 then serve s else serve (finishFailure a s)
    else s

/-- CHANNEL_REST_EXPIRY (R50, R62). -/
def channelRestExpiry (s : State) : State :=
  if due s.clock s.sc.rest then serve { s with sc := { s.sc with rest := none } } else s

/-- RETRY_DEADLINE_EXPIRY (R60): a READY step's retry becomes a request; otherwise it waits without a deadline. -/
def retryDeadlineExpiry (k : StepNo) (s : State) : State :=
  match s.sc.retries[k] with
  | none => s
  | some r =>
    if due s.clock r.deadline then
      if (s.stp k).state = some .ready then retryRequest r k s
      else { s with sc := { s.sc with retries := s.sc.retries.set k (some { r with deadline := none }) } }
    else s

/-- PULSE_DEADLINE_EXPIRY. -/
def execPulseDeadlineExpiry (k : StepNo) (c : Coil) (s : State) : Host.Outcome State Fault Refusal :=
  .next (pulseDeadlineExpiry k c s)

/-- OPERATION_TIMEOUT. -/
def execOperationTimeout (s : State) : Host.Outcome State Fault Refusal := .next (operationTimeout s)

/-- CHANNEL_REST_EXPIRY. -/
def execChannelRestExpiry (s : State) : Host.Outcome State Fault Refusal := .next (channelRestExpiry s)

/-- RETRY_DEADLINE_EXPIRY. -/
def execRetryDeadlineExpiry (k : StepNo) (s : State) : Host.Outcome State Fault Refusal :=
  .next (retryDeadlineExpiry k s)

end Sys2Proof.Machine
end

