-- ==== Sys2Proof/Machine/Dispatch.lean ====
section
/-! DEFINITION. The dispatch of the 64 commands to their meanings, in the order of spec/opcode_table.json. -/

namespace Sys2Proof.Machine

def exec (i : Instr) (s : State) : Host.Outcome State Fault Refusal :=
  match i with
  | .coldReset rate => Sys2Proof.Machine.execColdReset rate s
  | .cycleFrame m => Sys2Proof.Machine.execCycleFrame m s
  | .spectrumFrame m learnerFirst => Sys2Proof.Machine.execSpectrumFrame m learnerFirst s
  | .rawContactChange k c level => Sys2Proof.Machine.execRawContactChange k c level s
  | .contactFilterExpiry k c => Sys2Proof.Machine.execContactFilterExpiry k c s
  | .establishLimit => Sys2Proof.Machine.execEstablishLimit s
  | .blockInputChange level => Sys2Proof.Machine.execBlockInputChange level s
  | .blockFilterExpiry => Sys2Proof.Machine.execBlockFilterExpiry s
  | .positionWatchExpiry k => Sys2Proof.Machine.execPositionWatchExpiry k s
  | .dischargeExpiry k => Sys2Proof.Machine.execDischargeExpiry k s
  | .closeListLeaveExpiry k => Sys2Proof.Machine.execCloseListLeaveExpiry k s
  | .minClosedExpiry k => Sys2Proof.Machine.execMinClosedExpiry k s
  | .inrushHoldExpiry k => Sys2Proof.Machine.execInrushHoldExpiry k s
  | .pulseDeadlineExpiry k c => Sys2Proof.Machine.execPulseDeadlineExpiry k c s
  | .operationTimeout => Sys2Proof.Machine.execOperationTimeout s
  | .channelRestExpiry => Sys2Proof.Machine.execChannelRestExpiry s
  | .retryDeadlineExpiry k => Sys2Proof.Machine.execRetryDeadlineExpiry k s
  | .raiseExpiry => Sys2Proof.Machine.execRaiseExpiry s
  | .lowerExpiry => Sys2Proof.Machine.execLowerExpiry s
  | .settleExpiry => Sys2Proof.Machine.execSettleExpiry s
  | .supervisionExpiry => Sys2Proof.Machine.execSupervisionExpiry s
  | .filterPickupExpiry f => Sys2Proof.Machine.execFilterPickupExpiry f s
  | .filterDropoutExpiry f => Sys2Proof.Machine.execFilterDropoutExpiry f s
  | .freshnessExpiry => Sys2Proof.Machine.execFreshnessExpiry s
  | .resSettleExpiry => Sys2Proof.Machine.execResSettleExpiry s
  | .entryExpiry comb => Sys2Proof.Machine.execEntryExpiry comb s
  | .unbAlarmPickupExpiry k => Sys2Proof.Machine.execUnbAlarmPickupExpiry k s
  | .unbTripPickupExpiry k => Sys2Proof.Machine.execUnbTripPickupExpiry k s
  | .ov1PickupExpiry => Sys2Proof.Machine.execOv1PickupExpiry s
  | .ov1RepeatExpiry => Sys2Proof.Machine.execOv1RepeatExpiry s
  | .ov2PickupExpiry => Sys2Proof.Machine.execOv2PickupExpiry s
  | .deadLinePickupExpiry => Sys2Proof.Machine.execDeadLinePickupExpiry s
  | .restoreExpiry => Sys2Proof.Machine.execRestoreExpiry s
  | .tripTimeLeaveExpiry => Sys2Proof.Machine.execTripTimeLeaveExpiry s
  | .waitTimeout => Sys2Proof.Machine.execWaitTimeout s
  | .interByteTimeout => Sys2Proof.Machine.execInterByteTimeout s
  | .discardedFrame => Sys2Proof.Machine.execDiscardedFrame s
  | .replySent => Sys2Proof.Machine.execReplySent s
  | .unknownRequest kind tag payload => Sys2Proof.Machine.execUnknownRequest kind tag payload s
  | .status tag payload => Sys2Proof.Machine.execStatus tag payload s
  | .measure tag payload => Sys2Proof.Machine.execMeasure tag payload s
  | .stepRead tag payload => Sys2Proof.Machine.execStepRead tag payload s
  | .stepConfig tag payload => Sys2Proof.Machine.execStepConfig tag payload s
  | .service tag payload => Sys2Proof.Machine.execService tag payload s
  | .operate tag payload => Sys2Proof.Machine.execOperate tag payload s
  | .mode tag payload => Sys2Proof.Machine.execMode tag payload s
  | .controlConfig tag payload => Sys2Proof.Machine.execControlConfig tag payload s
  | .yardConfig tag payload => Sys2Proof.Machine.execYardConfig tag payload s
  | .filterRead tag payload => Sys2Proof.Machine.execFilterRead tag payload s
  | .filterConfig tag payload => Sys2Proof.Machine.execFilterConfig tag payload s
  | .filterEnable tag payload => Sys2Proof.Machine.execFilterEnable tag payload s
  | .vetoRead tag payload => Sys2Proof.Machine.execVetoRead tag payload s
  | .vetoWrite tag payload => Sys2Proof.Machine.execVetoWrite tag payload s
  | .zero tag payload => Sys2Proof.Machine.execZero tag payload s
  | .zeroCancel tag payload => Sys2Proof.Machine.execZeroCancel tag payload s
  | .acknowledgeStep tag rest => Sys2Proof.Machine.execAcknowledgeStep tag rest s
  | .acknowledgeFilter tag rest => Sys2Proof.Machine.execAcknowledgeFilter tag rest s
  | .acknowledgeYard tag rest => Sys2Proof.Machine.execAcknowledgeYard tag rest s
  | .events tag payload => Sys2Proof.Machine.execEvents tag payload s
  | .wait tag payload => Sys2Proof.Machine.execWait tag payload s
  | .save tag payload => Sys2Proof.Machine.execSave tag payload s
  | .saveEnd matched => Sys2Proof.Machine.execSaveEnd matched s
  | .restart tag payload => Sys2Proof.Machine.execRestart tag payload s
  | .byteReceived b => Sys2Proof.Machine.execByteReceived b s

end Sys2Proof.Machine
end

