-- ==== Sys2Proof/Machine/Tick.lean ====
section
/-! DEFINITION. What the device does with no command waiting: an event that is due is queued, and with none due the yard clock counts one millisecond (R12, R13; log entry 4). -/

namespace Sys2Proof.Machine

/-- A list of one event when its condition holds. -/
def dueOne (c : Bool) (i : Instr) : List Instr := if c then [i] else []

/-- A stage whose pickup deadline has passed. -/
def Stage.due (now : Clock) : Stage → Bool
  | .quiet => false
  | .pickingUp d => passed now d
  | .operated => false

/-- The events of one step that are due (R13). -/
def stepDue (s : State) (k : StepNo) : List Instr :=
  let r := s.stp k
  dueOne (due s.clock r.posA.deadline) (.contactFilterExpiry k .posA)
    ++ dueOne (due s.clock r.posB.deadline) (.contactFilterExpiry k .posB)
    ++ dueOne (due s.clock r.watch) (.positionWatchExpiry k)
    ++ dueOne (due s.clock r.discharge) (.dischargeExpiry k)
    ++ dueOne (due s.clock r.leave) (.closeListLeaveExpiry k)
    ++ dueOne (due s.clock r.minClosed) (.minClosedExpiry k)
    ++ dueOne (due s.clock r.inrush) (.inrushHoldExpiry k)
    ++ dueOne (r.alarmStage.due s.clock) (.unbAlarmPickupExpiry k)
    ++ dueOne (r.tripStage.due s.clock) (.unbTripPickupExpiry k)
    ++ dueOne (due s.clock s.sc.coils[k].close) (.pulseDeadlineExpiry k .closeCoil)
    ++ dueOne (due s.clock s.sc.coils[k].open_) (.pulseDeadlineExpiry k .openCoil)
    ++ dueOne (due s.clock (s.sc.retries[k].bind Retry.deadline)) (.retryDeadlineExpiry k)

/-- The timeout deadline of the ACTIVE record (R53). -/
def timeoutOf (s : State) : Option Clock := s.sc.active.map ActiveOp.timeout

/-- The raise deadline, while the raise timer runs (R84). -/
def VcState.raiseDeadline : VcState → Option Clock
  | .raiseTiming d => some d
  | .watch | .lowerTiming _ | .awaiting _ | .settling _ _ | .suspended => none

/-- The lower deadline, while the lower timer runs (R85). -/
def VcState.lowerDeadline : VcState → Option Clock
  | .lowerTiming d => some d
  | .watch | .raiseTiming _ | .awaiting _ | .settling _ _ | .suspended => none

/-- The settle deadline of the Voltage Controller (R94). -/
def VcState.settleDeadline : VcState → Option Clock
  | .settling _ d => some d
  | .watch | .raiseTiming _ | .lowerTiming _ | .awaiting _ | .suspended => none

/-- The settle deadline of the learning window (R125). -/
def Window.deadline : Window → Option Clock
  | .settling _ _ d => some d
  | .none | .started _ | .afterWait _ _ => Option.none

/-- The pickup deadline of a filter (R107). -/
def FilterState.pickupDeadline : FilterState → Option Clock
  | .pickingUp d => some d
  | .quiet | .active | .dropping _ | .held => none

/-- The dropout deadline of a filter (R108). -/
def FilterState.dropoutDeadline : FilterState → Option Clock
  | .dropping d => some d
  | .quiet | .active | .pickingUp _ | .held => none

/-- The pickup deadline of OV1 (R155). -/
def Ov1Stage.pickupDeadline : Ov1Stage → Option Clock
  | .pickingUp d => some d
  | .quiet | .operated _ => none

/-- The repeat deadline of OV1 (R155). -/
def Ov1Stage.repeatDeadline : Ov1Stage → Option Clock
  | .operated d => some d
  | .quiet | .pickingUp _ => none

/-- The restore deadline (R160). -/
def TripState.deadline : TripState → Option Clock
  | .restoring _ d => some d
  | .normal | .trippedAuto _ | .latched _ => none

/-- The events of one filter that are due. -/
def filterDue (s : State) (f : FilterNo) : List Instr :=
  dueOne (s.isEnabled f && due s.clock (s.filt f).state.pickupDeadline) (.filterPickupExpiry f)
    ++ dueOne (s.isEnabled f && due s.clock (s.filt f).state.dropoutDeadline) (.filterDropoutExpiry f)

/-- The entries of the Resonance Table whose expiry is due (R130). -/
def entriesDue (s : State) : List Instr :=
  (List.finRange 64).flatMap fun i =>
    dueOne (due s.clock s.rl.table[i].expiry) (.entryExpiry (BitVec.ofFin i))

/-- The frames the Measurement Unit completes now, with free measured contents (R1, R7; log entry 7). -/
def framesDue (s : State) : List Instr :=
  dueOne (passed s.clock s.mu.cycleEnd) (.cycleFrame (Config.cycleInput s.fresh))
    ++ dueOne (windowReady (Config.spectrumInput s.fresh) s).isSome
        (.spectrumFrame (Config.spectrumInput s.fresh) (Config.learnerFirst s.fresh))

/-- The due events of the blocks that have one of each. -/
def blocksDue (s : State) : List Instr :=
  dueOne (due s.clock s.sm.establish) .establishLimit
    ++ dueOne (due s.clock s.sc.block.deadline) .blockFilterExpiry
    ++ dueOne (due s.clock (timeoutOf s)) .operationTimeout
    ++ dueOne (due s.clock s.sc.rest) .channelRestExpiry
    ++ dueOne (due s.clock s.vc.state.raiseDeadline) .raiseExpiry
    ++ dueOne (due s.clock s.vc.state.lowerDeadline) .lowerExpiry
    ++ dueOne (due s.clock s.vc.state.settleDeadline) .settleExpiry
    ++ dueOne (due s.clock s.vc.supervision) .supervisionExpiry
    ++ dueOne (due s.clock s.hs.freshness) .freshnessExpiry
    ++ dueOne (due s.clock s.rl.window.deadline) .resSettleExpiry
    ++ dueOne (due s.clock s.yp.ov1.pickupDeadline) .ov1PickupExpiry
    ++ dueOne (due s.clock s.yp.ov1.repeatDeadline) .ov1RepeatExpiry
    ++ dueOne (s.yp.ov2.due s.clock) .ov2PickupExpiry
    ++ dueOne (s.yp.dead.due s.clock) .deadLinePickupExpiry
    ++ dueOne (due s.clock s.yp.trip.deadline) .restoreExpiry
    ++ dueOne (due s.clock s.yp.leave) .tripTimeLeaveExpiry
    ++ dueOne (due s.clock (s.li.held.map HeldWait.deadline)) .waitTimeout
    ++ dueOne (due s.clock s.li.rxLimit) .interByteTimeout
    ++ dueOne (due s.clock (s.store.saving.map Saving.limit)) (.saveEnd (Config.readbackMatches s.fresh))

/-- Every event that is due by the yard clock alone. -/
def dueEvents (s : State) : List Instr :=
  framesDue s ++ allSteps.flatMap (stepDue s) ++ blocksDue s ++ allFilters.flatMap (filterDue s) ++ entriesDue s

/-- One millisecond passes (R12). -/
def tick (s : State) : State := { s with clock := s.clock + 1 }

/-- The event taken first among those due (R13 leaves the order open; log entry 6). -/
def dueFirst (s : State) : Option Instr := (dueEvents s)[Config.dueChoice s.fresh % (dueEvents s).length]?

/-- What the device does with no command waiting (log entry 4): a due event becomes the waiting command, and with
none due one millisecond passes. -/
def idle (s : State) : State :=
  match dueFirst s with
  | none => tick s
  | some i => { s with pending := [i], fresh := s.fresh + 1 }

end Sys2Proof.Machine
end

