-- ==== Sys2Proof/Safety.lean ====
section
/-! DEFINITION. The laws of the device: what every state of a safe run satisfies, in the terms the statements use. -/

namespace Sys2Proof.Machine

/-- The Event Queue holds at most 64 records, and ATTN is asserted exactly while one of them is of class ATTN-CLASS
or above (R174, R176). -/
def QueueLaw (s : State) : Prop :=
  s.li.events.length ≤ 64 ∧ s.li.attn = attnOf s.settings.yard.attnClass s.li.events

/-- Places of the reply list in use: the replies, and the one reserved while a WAIT is held (R167). -/
def placesUsed (s : State) : Nat := s.li.replies.length + (if s.li.held = none then 0 else 1)

/-- The reply list has four places (R167). -/
def ReplyLaw (s : State) : Prop := placesUsed s ≤ 4

/-- Vc is clamped to 0 to 20 000; once a frame has been taken, the band status is that of the held Vc, and SATURATED
says that a limit was met (R16, R17). -/
def VoltageLaw (s : State) : Prop :=
  0 ≤ s.vc.vc ∧ s.vc.vc ≤ 20000
    ∧ (s.vc.frame ≠ .none →
        s.vc.band = (if s.vc.vc < s.vc.ll then .low else if s.vc.ul < s.vc.vc then .high else .inBand))
    ∧ (s.vc.saturated = true → s.vc.vc = 0 ∨ s.vc.vc = 20000)

/-- The Voltage Controller is SUSPENDED exactly outside AUTO, and the supervision deadline stands in REMOTE alone
(R81, R98). -/
def ModeLaw (s : State) : Prop :=
  (s.vc.mode = .auto ↔ s.vc.state ≠ .suspended) ∧ (s.vc.supervision ≠ none → s.vc.mode = .remote)

/-- The Insertion List names every energized step once and no other (R22). -/
def InsertionLaw (s : State) : Prop :=
  s.sm.insertion.Nodup ∧ ∀ k : StepNo, k ∈ s.sm.insertion ↔ mem s.energized k = true

/-- BKTRIP is asserted exactly while some step's lock reasons include OPEN-FAIL (R61). -/
def BktripLaw (s : State) : Prop := s.sc.bktrip = anyOpenFail s

/-- The harmonic close block is present exactly while an enabled filter whose action blocks closing is in force
(R112). -/
def HarmonicBlockLaw (s : State) : Prop := s.hs.block = allFilters.any (blocking s)

/-- Combination 0 is never judged or written and stays CLEAR (R121, R129, R132). -/
def EmptyCombinationLaw (s : State) : Prop := s.entry 0 = .clear

/-- The WAITING records: at most four, in class order, each with a step, no step in two of them or in one of them and
the ACTIVE record (R42 to R48). -/
def WaitingLaw (s : State) : Prop :=
  s.sc.waiting.length ≤ 4
    ∧ s.sc.waiting.Pairwise (fun a b => a.cls.rank ≤ b.cls.rank ∧ a.steps &&& b.steps = 0)
    ∧ (∀ o ∈ s.sc.waiting, o.steps ≠ 0)
    ∧ ∀ a, s.sc.active = some a → ∀ o ∈ s.sc.waiting, o.steps &&& a.op.steps = 0

/-- The close lists and the trip-time list hold at most 8 and 10 times, and the leave deadline is the head plus the
window (R69, R71, R159). -/
def ListLaw (s : State) : Prop :=
  (∀ k : StepNo, (s.stp k).closeList.length ≤ 8
      ∧ (s.stp k).leave = leaveOf (s.cfg k).restWindow (s.stp k).closeList)
    ∧ s.yp.times.length ≤ 10 ∧ s.yp.leave = tripLeave s.settings.yard.retryWindow s.yp.times

/-- A step's states in which it is in service (R35, R36). -/
def StepState.working : StepState → Bool
  | .offline => false
  | .cooling => true
  | .ready => true
  | .closing => true
  | .closed => true
  | .opening => true
  | .locked => false

/-- What the Step Table, the retries and the zeroing keep of one another (R33, R35, R36, R39, R59, R136, R149). -/
structure TableLaw (s : State) : Prop where
  /-- Before the build no step has a state and nothing is ACTIVE. -/
  unbuilt : s.sm.built = false → s.sc.active = none ∧ ∀ k : StepNo, (s.stp k).state = none
  /-- A step is LOCKED exactly while it has a lock reason. -/
  locked : ∀ k : StepNo, (s.stp k).state = some .locked ↔ (s.stp k).locks ≠ 0
  /-- An OFFLINE step is out of service. -/
  offline : ∀ k : StepNo, (s.stp k).state = some .offline → s.inService k = false
  /-- A step in a working state is in service. -/
  working : ∀ (k : StepNo) (st : StepState), (s.stp k).state = some st → st.working = true → s.inService k = true
  /-- A step that is not supervised has no latest values and both stages QUIET. -/
  unsupervised : ∀ k : StepNo, (s.stp k).supervised = false →
    (s.stp k).latest = none ∧ (s.stp k).alarmStage = .quiet ∧ (s.stp k).tripStage = .quiet
  /-- A pending retry does not outlast READY or COOLING. -/
  retry : ∀ k : StepNo, s.sc.retries[k] ≠ none → (s.stp k).state = some .ready ∨ (s.stp k).state = some .cooling
  /-- A zeroing does not outlast state CLOSED with contacts CLOSED. -/
  zeroing : ∀ z : Zeroing, s.zeroing = some z →
    (s.stp z.step).state = some .closed ∧ (s.stp z.step).sensed = some .closed

/-- Every delta-V estimate lies within DV-MIN to DV-MAX, and every image has its limits in order (R97). -/
def EstimateLaw (s : State) : Prop :=
  s.settings.control.dvMin ≤ s.settings.control.dvMax
    ∧ (∀ k : StepNo, (s.settings.control.dvMin : Int) ≤ (s.cfg k).dvEstimate
        ∧ (s.cfg k).dvEstimate ≤ s.settings.control.dvMax)
    ∧ s.store.slotA.image.control.dvMin ≤ s.store.slotA.image.control.dvMax
    ∧ s.store.slotB.image.control.dvMin ≤ s.store.slotB.image.control.dvMax
    ∧ ∀ v : Saving, s.store.saving = some v → v.image.control.dvMin ≤ v.image.control.dvMax

end Sys2Proof.Machine
end

