-- ==== Sys2Proof/Certificates/Slice0/Obligations.lean ====
section
/-! DEFINITION. The statements for the provers, in the order of the blocks; `t = { s with sm := t.sm }` says that nothing but the named parts of the state changed. -/

open Sys2Proof Sys2Proof.Machine

/-! ### The step of the block -/

/-- A step takes the command at the front of the queue and runs it with the rest of the queue. -/
def Obligations.StepRunsTheFrontCommand : Prop :=
  ∀ (c : Instr) (rest : List Instr) (s : State),
    s.pending = c :: rest → step s = exec c { s with pending := rest }

/-- With no command waiting, an event that is due becomes the waiting command, and with none due the clock counts
one millisecond (R12). The model's choice: log entry 4. -/
def Obligations.IdleStepQueuesADueEventOrCountsAMillisecond : Prop :=
  ∀ s : State, s.pending = [] →
    (dueEvents s = [] → step s = .next { s with clock := s.clock + 1 })
      ∧ (dueEvents s ≠ [] →
          ∃ i ∈ dueEvents s, step s = .next { s with pending := [i], fresh := s.fresh + 1 })

/-- Every command answers a next state, leaves the waiting commands alone, and leaves the yard clock alone but for
COLD_RESET, which sets it to 0 (R12). That an event command which is not due completes too, and changes nothing, is
the model's choice: log entry 3. -/
def Obligations.EveryCommandCompletesAndKeepsQueueAndClock : Prop :=
  ∀ (i : Instr) (s : State), ∃ t, exec i s = .next t ∧ t.pending = s.pending
    ∧ t.clock = (match i with | .coldReset _ => 0 | _ => s.clock)

/-! ### Arithmetic -/

/-- A deadline of at most 24 h has passed exactly from its own millisecond on, over the whole horizon of the
comparison and across the wrap of the count (R12, R13). -/
def Obligations.DeadlineComparisonIsExact : Prop :=
  ∀ (t : Clock) (ms j : Nat), ms ≤ 86400000 → j < 2 ^ 31 → passed (addMs t j) (addMs t ms) = decide (ms ≤ j)

/-- isqrt is the largest whole number whose square does not exceed its argument, over every argument the device
computes (00_scope.md, Integer square root). -/
def Obligations.IntegerSquareRootIsExact : Prop :=
  ∀ n : Nat, n < 2 ^ 64 → isqrt n * isqrt n ≤ n ∧ n < (isqrt n + 1) * (isqrt n + 1)

/-! ### Cold reset -/

/-- COLD_RESET with no valid store slot starts every block from the values its chapter gives (R18, R19 among them), with
every setting at its default, and reports COLD-START and STORE-INVALID. That the pins keep their levels, and that the
command carries the levels of RATE1 and RATE0, is the model's choice: log entry 1. -/
def Obligations.ColdResetWithNoValidSlotStartsFromDefaults : Prop :=
  ∀ (rate : BitVec 2) (s : State), s.store.image = none → ∃ t, exec (.coldReset rate) s = .next t
    ∧ t.clock = 0 ∧ t.settings = Settings.default
    ∧ t.mu.cycle = none ∧ t.mu.spectrum = none ∧ t.vtLoss = false ∧ t.mu.angleRef = 0 ∧ t.mu.freq = .hz50
    ∧ t.mu.cycleEnd = 20 ∧ t.mu.windowCount = 0
    ∧ t.sm.built = false ∧ t.sm.insertion = [] ∧ t.energized = 0
    ∧ (∀ k : StepNo, (t.stp k).state = none ∧ (t.stp k).sensed = none ∧ (t.stp k).locks = 0
        ∧ (t.stp k).discharge = none ∧ (t.stp k).closeList = [] ∧ (t.stp k).leave = none
        ∧ (t.stp k).minClosed = none ∧ (t.stp k).closeCount = 0 ∧ (t.stp k).openCount = 0
        ∧ (t.stp k).lastOp = none ∧ (t.stp k).alarmFlag = false ∧ (t.stp k).watch = none
        ∧ (t.stp k).inrush = none ∧ (t.stp k).latest = none ∧ (t.stp k).alarmStage = .quiet
        ∧ (t.stp k).tripStage = .quiet
        ∧ (t.stp k).posA = ⟨(s.stp k).posA.raw, none, some 10⟩
        ∧ (t.stp k).posB = ⟨(s.stp k).posB.raw, none, some 10⟩)
    ∧ t.sc.active = none ∧ t.sc.waiting = [] ∧ t.sc.rest = none ∧ t.sc.nextId = 0 ∧ t.sc.bktrip = false
    ∧ (∀ k : StepNo, t.sc.retries[k] = none ∧ t.sc.coils[k] = ⟨none, none⟩)
    ∧ t.sc.block.filtered = none ∧ t.blocked = true
    ∧ t.vc.mode = .hold ∧ t.vc.state = .suspended ∧ t.vc.supervision = none ∧ t.vc.vc = 0
    ∧ t.vc.saturated = false ∧ t.vc.band = .inBand ∧ t.vc.urgentHigh = false ∧ t.vc.frame = .none
    ∧ (∀ f : FilterNo, t.filt f = ⟨.quiet, false, none, none, .none⟩) ∧ t.hs.block = false
    ∧ t.hs.freshness = none ∧ (∀ c : Comb, t.entry c = ⟨.clear, none, none⟩) ∧ t.rl.window = .none
    ∧ t.zeroing = none ∧ t.yp = ⟨.quiet, .quiet, .quiet, .normal, [], none⟩
    ∧ t.li.rate = rate ∧ t.li.rx = .hunt ∧ t.li.replies = [] ∧ t.li.held = none ∧ t.li.gap = false
    ∧ t.li.sticky = { Sticky.none with storeInvalid := true } ∧ t.li.attn = true
    ∧ t.li.events = [⟨0, .coldStart, .alarm, none, none, none, none⟩,
        ⟨0, .storeInvalid, .alarm, none, none, none, none⟩]
    ∧ t.store = { s.store with saving := none }

/-- COLD_RESET loads the newest valid image as it stands but for the delta-V estimates, which are clamped to the
image's limits, and COLD-START is the first record (R97, R100, R180, R181). -/
def Obligations.ColdResetLoadsTheNewestImage : Prop :=
  ∀ (rate : BitVec 2) (s : State) (img : Settings), s.store.image = some img →
    ∃ t, exec (.coldReset rate) s = .next t ∧ t.clock = 0
      ∧ t.settings.control = img.control ∧ t.settings.yard = img.yard ∧ t.settings.filters = img.filters
      ∧ t.settings.inService = img.inService ∧ t.settings.enabled = img.enabled
      ∧ (∀ k : StepNo, t.cfg k =
          { img.steps[k] with
            dvEstimate := clampInt img.control.dvMin img.control.dvMax img.steps[k].dvEstimate })
      ∧ t.vc.mode = img.control.startMode ∧ t.li.sticky = Sticky.none
      ∧ t.li.events.head? = some ⟨0, .coldStart, .alarm, none, none, none, none⟩
      ∧ ∀ e ∈ t.li.events.tail, e.kind = .estimateClamped

/-! ### Frames -/

/-- VT-LOSS: a phase that is ABSENT or below 2 000, and another that is valid at 7 000 or more; the condition other
blocks read is that of the latest Cycle Frame, and it is absent before the first (R5). -/
def Obligations.VtLossNeedsAFailedAndAnotherHealthyPhase : Prop :=
  (∀ (now : Clock) (carried : Nat) (m : CycleInput),
    let p : Fin 3 → Phase := ![(formCycle now carried m).va, (formCycle now carried m).vb, (formCycle now carried m).vc]
    (formCycle now carried m).vtLoss = true ↔
      ∃ i j : Fin 3, i ≠ j ∧ ((p i).quality = .absent ∨ (p i).value < 2000)
        ∧ (p j).quality ≠ .absent ∧ 7000 ≤ (p j).value)
    ∧ (∀ (s : State) (f : CycleFrame), s.mu.cycle = some f → s.vtLoss = f.vtLoss)
    ∧ (∀ s : State, s.mu.cycle = none → s.vtLoss = false)
    ∧ ∀ (rate : BitVec 2) (s : State), ∃ t, exec (.coldReset rate) s = .next t ∧ t.vtLoss = false

/-- CYCLE_FRAME at the end of a cycle: the frame is held, the timebase goes on, and the Voltage Controller holds Vc,
SATURATED, the band status and the frame record of R14 to R17; no breaker operation is touched. The neutral phasors
are referenced to the angle of the first valid phase, brought to phase A, or to the last reference carried forward:
turned back by that angle, each component bounded to 16 bits (R4). At a quarter turn the components are whole numbers,
and at a multiple of 30 or 45 degrees a component that is whole is given as it is; elsewhere each is a whole number
next to the exact one, since R4 gives no rounding (log entry 9), and the statement leaves it 2^-49 of the two
components besides. A change of FREQUENCY starts the timebase anew at this completion (R10); one accepted after the
window's Spectrum Frame waits for the next cycle (log entry 35). The phase values with their qualities, the number of
valid phases and IP and IQ are formed from the operand, in thousandths (log entry 8), and a clamp of one of them or of
Vc sets CLAMP-SEEN (R2, R3, R16). VT-LOSS-ON and VT-LOSS-OFF join when the condition changes, and only then (R6). The
cycles of the window are counted, 10 at 50 Hz and 12 at 60 Hz, with the phases valid on all of them (R7, R8). -/
def Obligations.CycleFrameIsHeldAndSetsTheControlVoltage : Prop :=
  ∀ (m : CycleInput) (s : State), passed s.clock s.mu.cycleEnd = true →
    ∃ t, exec (.cycleFrame m) s = .next t ∧
      let f := formCycle s.clock s.mu.angleRef m
      let c := s.settings.control
      let raw := (f.select s.settings.yard.selection : Int) - (f.ip * c.ldcR + f.iq * c.ldcX).tdiv 10000
      let ll := (c.setpoint : Int) - (c.bandwidth / 2 : Nat)
      let ul := (c.setpoint : Int) + (c.bandwidth / 2 : Nat)
      let phase (p : PhaseInput) : Phase := if p.fullScale then ⟨.clipped, 20000⟩
        else if p.fundamental < 100000 then ⟨.absent, 0⟩ else ⟨.good, min ((p.fundamental + 500) / 1000) 20000⟩
      let valid := [m.va, m.vb, m.vc].filter fun p => (phase p).quality ≠ .absent
      let current (part : PhaseInput → Int) : Int := (valid.map part).sum.tdiv (1000 * valid.length : Nat)
      let windowEnds := (match s.mu.freq with
        | .hz50 => 10
        | .hz60 => 12) ≤ s.mu.windowCount + 1
      let allValid : PhaseFlags := ⟨s.mu.windowValid.a && (phase m.va).quality ≠ .absent,
        s.mu.windowValid.b && (phase m.vb).quality ≠ .absent, s.mu.windowValid.c && (phase m.vc).quality ≠ .absent⟩
      t.mu.cycle = some f ∧ t.mu.spectrum = s.mu.spectrum
        ∧ f.time = s.clock ∧ f.va = phase m.va ∧ f.vb = phase m.vb ∧ f.vc = phase m.vc ∧ f.valid = valid.length
        ∧ f.ip = max (-30000) (min 30000 (current PhaseInput.active))
        ∧ f.iq = max (-30000) (min 30000 (current PhaseInput.reactive))
        ∧ (s.li.sticky.clampSeen = true → t.li.sticky.clampSeen = true)
        ∧ (((∃ p ∈ [m.va, m.vb, m.vc], p.fullScale = false ∧ 20000 < (p.fundamental + 500) / 1000)
            ∨ f.ip ≠ current PhaseInput.active ∨ f.iq ≠ current PhaseInput.reactive ∨ raw < 0 ∨ 20000 < raw) →
          t.li.sticky.clampSeen = true)
        ∧ (s.li.events.length ≤ 50 → s.vtLoss = false → f.vtLoss = true → ⟨s.clock, .vtLossOn, .alarm, none, none,
            some (([f.va.value, f.vb.value, f.vc.value].min?.getD 0 : Nat) : Int), f.values.max?.map Int.ofNat⟩ ∈ t.li.events)
        ∧ (s.li.events.length ≤ 50 → s.vtLoss = true → f.vtLoss = false →
            ⟨s.clock, .vtLossOff, .info, none, none, none, none⟩ ∈ t.li.events)
        ∧ (f.vtLoss = s.vtLoss → ∀ e ∈ t.li.events, (e.kind = .vtLossOn ∨ e.kind = .vtLossOff) → e ∈ s.li.events)
        ∧ ((s.mu.freqChange = false ∨ s.mu.spectrumTaken = true) → t.mu.patternPos = s.mu.patternPos + 1
            ∧ t.mu.spectrumTaken = false
            ∧ t.mu.windowCount = (if windowEnds then 0 else s.mu.windowCount + 1)
            ∧ t.mu.windowValid = (if windowEnds then ⟨true, true, true⟩ else allValid)
            ∧ t.mu.owed = (if windowEnds then (if s.mu.spectrumTaken then none else some allValid) else s.mu.owed))
        ∧ t.mu.angleRef = (if f.va.quality ≠ .absent then m.va.angle
            else if f.vb.quality ≠ .absent then (m.vb.angle + 120000) % 360000
            else if f.vc.quality ≠ .absent then (m.vc.angle + 240000) % 360000 else s.mu.angleRef)
        ∧ (∀ k : StepNo,
            let n := m.neutrals[k]
            let bounded (x y : Int) : Neutral := ⟨clampInt (-32768) 32767 x, clampInt (-32768) 32767 y,
              n.fullScale || decide (x < -32768 ∨ 32767 < x ∨ y < -32768 ∨ 32767 < y)⟩
            (t.mu.angleRef = 0 → f.neutrals[k] = bounded n.x n.y)
              ∧ (t.mu.angleRef = 90000 → f.neutrals[k] = bounded n.y (-n.x))
              ∧ (t.mu.angleRef = 180000 → f.neutrals[k] = bounded (-n.x) (-n.y))
              ∧ (t.mu.angleRef = 270000 → f.neutrals[k] = bounded (-n.y) n.x)
              ∧ ∃ x y : Int, f.neutrals[k] = bounded x y ∧
                let θ : ℝ := (t.mu.angleRef : ℝ) * Real.pi / 180000
                let off : ℝ := 1 + (|(n.x : ℝ)| + |(n.y : ℝ)|) / 2 ^ 49
                |(x : ℝ) - (n.x * Real.cos θ + n.y * Real.sin θ)| ≤ off
                  ∧ |(y : ℝ) - (n.y * Real.cos θ - n.x * Real.sin θ)| ≤ off
                  ∧ ((t.mu.angleRef % 30000 = 0 ∨ t.mu.angleRef % 45000 = 0) →
                    (∀ c : Int, (c : ℝ) = n.x * Real.cos θ + n.y * Real.sin θ → x = c)
                      ∧ ∀ c : Int, (c : ℝ) = n.y * Real.cos θ - n.x * Real.sin θ → y = c))
        ∧ ((s.mu.freqChange = false ∨ s.mu.spectrumTaken = true) → t.mu.freq = s.mu.freq
            ∧ t.mu.freqChange = s.mu.freqChange
            ∧ t.mu.cycleEnd = addMs s.mu.cycleEnd (cycleLength s.mu.freq (s.mu.patternPos + 1)))
        ∧ (s.mu.freqChange = true → s.mu.spectrumTaken = false → t.mu.freq = s.settings.yard.frequency
            ∧ t.mu.freqChange = false
            ∧ t.mu.windowCount = 0 ∧ t.mu.patternPos = 0 ∧ t.mu.owed = s.mu.owed
            ∧ t.mu.cycleEnd = addMs s.mu.cycleEnd (firstCycle s.settings.yard.frequency))
        ∧ t.vc.vc = (if raw < 0 then 0 else if 20000 < raw then 20000 else raw)
        ∧ t.vc.saturated = decide (raw < 0 ∨ 20000 < raw)
        ∧ t.vc.band = (if t.vc.vc < ll then .low else if ul < t.vc.vc then .high else .inBand)
        ∧ t.vc.urgentHigh = decide (ul + c.urgentMargin < t.vc.vc)
        ∧ t.vc.frame = (if f.values = [] then .unusable else .usable)
        ∧ t.vc.mode = s.vc.mode ∧ t.vc.supervision = s.vc.supervision
        ∧ t.sc = s.sc ∧ t.hs = s.hs ∧ t.rl.table = s.rl.table ∧ t.store = s.store ∧ t.settings.control = c
        ∧ t.settings.yard = s.settings.yard
        ∧ ∀ k : StepNo, (t.stp k).state = (s.stp k).state ∧ (t.stp k).sensed = (s.stp k).sensed
            ∧ (t.stp k).locks = (s.stp k).locks

/-- A Cycle Frame starts, continues, shortens or cancels the raise and lower timers by the frame's band status, and
starts none in AWAITING, SETTLING and SUSPENDED (R84 to R87). The drawn jitter is any number from 0 to JITTER-MAX
(R86). A running lower timer is shortened by the URGENT-DELAY it started with (R99; log entry 36). In SETTLING a frame
with VT-LOSS or without a valid phase discards the sample with LEARN-DISCARDED (R87, R96), and such a frame discards a
learning window in SETTLING or AFTER-WAIT with RES-DISCARDED in every mode (R127); any other frame leaves them. -/
def Obligations.CycleFrameMovesTheTimers : Prop :=
  ∀ (m : CycleInput) (s : State), passed s.clock s.mu.cycleEnd = true →
    ∃ t, exec (.cycleFrame m) s = .next t ∧
      let c := s.settings.control
      let f := formCycle s.clock s.mu.angleRef m
      ((s.vc.state = .suspended ∨ ∃ smp, s.vc.state = .awaiting smp) → t.vc.state = s.vc.state)
        ∧ (∀ x d, s.vc.state = .settling x d →
          let discarded (reason : Int) := t.vc.state = .watch ∧ (s.li.events.length ≤ 50 →
            ⟨s.clock, .learnDiscarded, .info, some x.step, some x.id, some reason, none⟩ ∈ t.li.events)
          (f.vtLoss = true → discarded 4) ∧ (f.vtLoss = false → f.values = [] → discarded 5)
            ∧ (f.vtLoss = false → f.values ≠ [] → t.vc.state = .settling x d))
        ∧ (∀ w, ((∃ e d, s.rl.window = .settling w e d) ∨ ∃ e, s.rl.window = .afterWait w e) →
          let discarded (reason : Int) := t.rl.window = .none ∧ (s.li.events.length ≤ 50 →
            ⟨s.clock, .resDiscarded, .info, some w.step, some w.id, some reason, none⟩ ∈ t.li.events)
          (f.vtLoss = true → discarded 3) ∧ (f.vtLoss = false → f.values = [] → discarded 4)
            ∧ (f.vtLoss = false → f.values ≠ [] → t.rl.window = s.rl.window))
        ∧ ((s.rl.window = .none ∨ ∃ w, s.rl.window = .started w) → t.rl.window = s.rl.window)
        ∧ ((s.vc.state = .watch ∨ (∃ d, s.vc.state = .raiseTiming d) ∨ ∃ d, s.vc.state = .lowerTiming d) →
          ((t.vc.frame ≠ .usable ∨ t.vc.band = .inBand) → t.vc.state = .watch)
          ∧ (t.vc.frame = .usable → t.vc.band = .low →
              (∃ d, s.vc.state = .raiseTiming d ∧ t.vc.state = .raiseTiming d)
              ∨ ((∀ d, s.vc.state ≠ .raiseTiming d) ∧ ∃ j, j ≤ c.jitterMax
                  ∧ t.vc.state = .raiseTiming (addSec s.clock (c.raiseDelay + j))))
          ∧ (t.vc.frame = .usable → t.vc.band = .high →
              (∃ d, s.vc.state = .lowerTiming d ∧ t.vc.state = .lowerTiming
                (if t.vc.urgentHigh then earlier s.clock d (addSec s.clock s.vc.urgentHeld) else d)
                ∧ t.vc.urgentHeld = s.vc.urgentHeld)
              ∨ ((∀ d, s.vc.state ≠ .lowerTiming d) ∧ t.vc.urgentHigh = true
                  ∧ t.vc.state = .lowerTiming (addSec s.clock c.urgentDelay) ∧ t.vc.urgentHeld = c.urgentDelay)
              ∨ ((∀ d, s.vc.state ≠ .lowerTiming d) ∧ t.vc.urgentHigh = false ∧ ∃ j, j ≤ c.jitterMax
                  ∧ t.vc.state = .lowerTiming (addSec s.clock (c.lowerDelay + j))
                  ∧ t.vc.urgentHeld = c.urgentDelay)))

/-- A Cycle Frame with a valid phase is evaluated for every supervised step past its inrush hold: the compensated
magnitude and both stages follow R138 to R140, a clamp of a component sets CLAMP-SEEN, the trip stage staying QUIET
with TRIP-MODE OFF; every other step's record is as before. The zeroing in flight is aborted by a frame outside its
voltage range, with VT-LOSS or with a CLIPPED neutral of its step (R149); otherwise it takes the frame (R147), and at
its last frame the means become the step's compensation values (R148). -/
def Obligations.CycleFrameEvaluatesUnbalance : Prop :=
  (∀ (m : CycleInput) (s : State) (k : StepNo), passed s.clock s.mu.cycleEnd = true →
    ∃ t, exec (.cycleFrame m) s = .next t ∧
      let f := formCycle s.clock s.mu.angleRef m
      let c := s.cfg k
      ((f.values = [] ∨ (s.stp k).supervised = false ∨ (s.stp k).inrush ≠ none) → t.stp k = s.stp k)
        ∧ (f.values ≠ [] → (s.stp k).supervised = true → (s.stp k).inrush = none → ∃ l : UnbLatest,
            (t.stp k).latest = some l
            ∧ l.sx = divNearest (c.inherentX * (f.values.sum / f.values.length : Nat)) c.refV
            ∧ l.sy = divNearest (c.inherentY * (f.values.sum / f.values.length : Nat)) c.refV
            ∧ l.cx = clampInt (-32767) 32767 (f.neutrals[k].x - l.sx)
            ∧ l.cy = clampInt (-32767) 32767 (f.neutrals[k].y - l.sy)
            ∧ ((l.cx ≠ f.neutrals[k].x - l.sx ∨ l.cy ≠ f.neutrals[k].y - l.sy) → t.li.sticky.clampSeen = true)
            ∧ l.u = (if f.neutrals[k].clipped then 46340 else isqrt (l.cx * l.cx + l.cy * l.cy).toNat)
            ∧ ((s.stp k).alarmStage = .quiet → (t.stp k).alarmStage =
                if c.unbAlarm ≤ l.u then .pickingUp (addSec s.clock c.alarmDelay) else .quiet)
            ∧ ((s.stp k).alarmStage ≠ .quiet → (t.stp k).alarmStage =
                if l.u < c.unbAlarm * 95 / 100 then .quiet else (s.stp k).alarmStage)
            ∧ (c.tripMode = .off → (t.stp k).tripStage = .quiet)
            ∧ (c.tripMode ≠ .off → (s.stp k).tripStage = .quiet → (t.stp k).tripStage =
                if c.unbTrip ≤ l.u then .pickingUp (addMs s.clock c.tripDelay) else .quiet)
            ∧ (c.tripMode ≠ .off → (s.stp k).tripStage ≠ .quiet → (t.stp k).tripStage =
                if l.u < c.unbTrip * 95 / 100 then .quiet else (s.stp k).tripStage)
            ∧ t.stp k = { s.stp k with
                latest := some l, alarmStage := (t.stp k).alarmStage, tripStage := (t.stp k).tripStage }))
    ∧ ∀ (m : CycleInput) (s : State) (z : Zeroing), passed s.clock s.mu.cycleEnd = true → s.zeroing = some z →
      s.li.events.length ≤ 50 → ∃ t, exec (.cycleFrame m) s = .next t ∧
        let f := formCycle s.clock s.mu.angleRef m
        let v := f.values.sum / f.values.length
        let n := f.neutrals[z.step]
        let off := f.values = [] ∨ v < 9000 ∨ 11000 < v
        let aborted (reason : Int) : Prop := t.zeroing = none ∧ t.settings = s.settings
          ∧ ⟨s.clock, .zeroAborted, .info, some z.step, none, some reason, some (z.taken : Int)⟩ ∈ t.li.events
        let x := divNearest (z.sumX + n.x) z.length
        let y := divNearest (z.sumY + n.y) z.length
        (off → aborted 1) ∧ (¬off → f.vtLoss = true → aborted 2)
          ∧ (¬off → f.vtLoss = false → n.clipped = true → aborted 3)
          ∧ (¬off → f.vtLoss = false → n.clipped = false → z.taken + 1 < z.length → t.settings = s.settings
            ∧ t.zeroing = some { z with
                taken := z.taken + 1, sumX := z.sumX + n.x, sumY := z.sumY + n.y, sumV := z.sumV + v })
          ∧ (¬off → f.vtLoss = false → n.clipped = false → z.length ≤ z.taken + 1 → t.zeroing = none
            ∧ t.cfg z.step = { s.cfg z.step with
                inherentX := x, inherentY := y, refV := (divNearest ((z.sumV + v : Nat) : Int) z.length).toNat }
            ∧ (∀ j, j ≠ z.step → t.cfg j = s.cfg j)
            ∧ ⟨s.clock, .zeroDone, .info, some z.step, none, some x, some y⟩ ∈ t.li.events)

/-- A Cycle Frame moves the OV1, OV2 and dead-line stages and the yard trip state by their conditions on the frame:
TRIPPED-AUTO goes to RESTORING with the restore condition of its cause and stays without it, and RESTORING stays with it
and goes back without it (R153, R154, R156, R157, R160). -/
def Obligations.CycleFrameMovesTheYardStages : Prop :=
  ∀ (m : CycleInput) (s : State), passed s.clock s.mu.cycleEnd = true →
    ∃ t, exec (.cycleFrame m) s = .next t ∧
      let f := formCycle s.clock s.mu.angleRef m
      let y := s.settings.yard
      let high := ∃ v ∈ f.values, y.ov1Level < v
      let veryHigh := ∃ v ∈ f.values, y.ov2Level < v
      let dead := f.va.value < y.deadLevel ∧ f.vb.value < y.deadLevel ∧ f.vc.value < y.deadLevel ∧ f.vtLoss = false
      let back := y.restoreLevel ≤ f.va.value ∧ y.restoreLevel ≤ f.vb.value ∧ y.restoreLevel ≤ f.vc.value
        ∧ f.vtLoss = false
      (high → s.yp.ov1 = .quiet → t.yp.ov1 = .pickingUp (addSec s.clock y.ov1Delay))
        ∧ (high → s.yp.ov1 ≠ .quiet → t.yp.ov1 = s.yp.ov1) ∧ (¬high → t.yp.ov1 = .quiet)
        ∧ (veryHigh → s.yp.ov2 = .quiet → t.yp.ov2 = .pickingUp (addMs s.clock y.ov2Delay))
        ∧ (veryHigh → s.yp.ov2 ≠ .quiet → t.yp.ov2 = s.yp.ov2) ∧ (¬veryHigh → t.yp.ov2 = .quiet)
        ∧ (dead → s.yp.dead = .quiet → t.yp.dead = .pickingUp (addMs s.clock y.deadDelay))
        ∧ (dead → s.yp.dead ≠ .quiet → t.yp.dead = s.yp.dead) ∧ (¬dead → t.yp.dead = .quiet)
        ∧ (back → s.yp.trip = .trippedAuto .deadLine →
            t.yp.trip = .restoring .deadLine (addSec s.clock y.restoreDelay))
        ∧ (¬back → s.yp.trip = .trippedAuto .deadLine → t.yp.trip = .trippedAuto .deadLine)
        ∧ (¬back → ∀ d, s.yp.trip = .restoring .deadLine d → t.yp.trip = .trippedAuto .deadLine)
        ∧ (back → ∀ d, s.yp.trip = .restoring .deadLine d → t.yp.trip = .restoring .deadLine d)
        ∧ (f.values ≠ [] → ¬high → s.yp.trip = .trippedAuto .ov2 →
            t.yp.trip = .restoring .ov2 (addSec s.clock y.restoreDelay))
        ∧ ((f.values = [] ∨ high) → s.yp.trip = .trippedAuto .ov2 → t.yp.trip = .trippedAuto .ov2)
        ∧ ((f.values = [] ∨ high) → ∀ d, s.yp.trip = .restoring .ov2 d → t.yp.trip = .trippedAuto .ov2)
        ∧ (f.values ≠ [] → ¬high → ∀ d, s.yp.trip = .restoring .ov2 d → t.yp.trip = .restoring .ov2 d)
        ∧ (s.yp.trip = .normal → t.yp.trip = .normal) ∧ (∀ c, s.yp.trip = .latched c → t.yp.trip = .latched c)
        ∧ t.yp.times = s.yp.times

/-- SPECTRUM_FRAME at the end of a window: the frame is held with every level the greatest of the qualifying phases,
floored and clamped to 10 000, and with the three yard fundamentals, to nearest and clamped to 30 000 (R7, R8). Every
enabled filter takes its level from it: the square root of the sum of squares, or the sum, of its chosen orders of its
source, clamped to 20 000 (R103). A clamp of a qualifying level, of a fundamental or of a filter's level sets
CLAMP-SEEN. With the channel idle and no judgement due, so that no other block moves before every filter has handled
the frame, it asserts by its threshold, its inversion and its qualifier (R104, R105) and its state moves by R107,
R108, R109 and R115. That the start attempts of the requests of one filter come after the frame at the next filter is
an inference (log entry 12). The operand carries thousandths of a hu and of 0.01 % of rated yard current (log entry
8), and which phases were valid on the last cycle of a window whose last Cycle Frame has not been taken yet (log entry
27). -/
def Obligations.SpectrumFrameIsHeldAndSetsTheFilterLevels : Prop :=
  ∀ (m : SpectrumInput) (first : Bool) (s : State) (v : PhaseFlags), windowReady m s = some v →
    ∃ t g, exec (.spectrumFrame m first) s = .next t ∧ t.mu.spectrum = some g ∧ g.time = s.clock
      ∧ (∀ i : Fin 24, g.vh[i] = max (if v.a then min (m.va.levels[i] / 1000) 10000 else 0)
          (max (if v.b then min (m.vb.levels[i] / 1000) 10000 else 0)
            (if v.c then min (m.vc.levels[i] / 1000) 10000 else 0)))
      ∧ (∀ i : Fin 24, g.qh[i] = max (if 100000 ≤ m.qa.fundamental then min (m.qa.levels[i] / 1000) 10000 else 0)
          (max (if 100000 ≤ m.qb.fundamental then min (m.qb.levels[i] / 1000) 10000 else 0)
            (if 100000 ≤ m.qc.fundamental then min (m.qc.levels[i] / 1000) 10000 else 0)))
      ∧ g.qa1 = min ((m.qa.fundamental + 500) / 1000) 30000 ∧ g.qb1 = min ((m.qb.fundamental + 500) / 1000) 30000
      ∧ g.qc1 = min ((m.qc.fundamental + 500) / 1000) 30000
      ∧ (s.li.sticky.clampSeen = true → t.li.sticky.clampSeen = true)
      ∧ (((∃ i : Fin 24, (v.a = true ∧ 10000 < m.va.levels[i] / 1000) ∨ (v.b = true ∧ 10000 < m.vb.levels[i] / 1000)
            ∨ (v.c = true ∧ 10000 < m.vc.levels[i] / 1000)
            ∨ ∃ q ∈ [m.qa, m.qb, m.qc], 100000 ≤ q.fundamental ∧ 10000 < q.levels[i] / 1000)
          ∨ ∃ q ∈ [m.qa, m.qb, m.qc], 30000 < (q.fundamental + 500) / 1000) → t.li.sticky.clampSeen = true)
      ∧ t.mu.owed = none ∧ t.mu.cycle = s.mu.cycle ∧ t.mu.cycleEnd = s.mu.cycleEnd
      ∧ (∀ f : FilterNo, s.isEnabled f = true →
          let c := s.fcfg f
          let part (i : Fin 24) : Nat := if c.orders.getLsbD i then (match c.source with
            | .voltage => g.vh[i]
            | .yardCurrent => g.qh[i]) else 0
          let raw := match c.measure with
            | .rss => isqrt (∑ i, part i * part i)
            | .sum => ∑ i, part i
          let level := min raw 20000
          let qualified := match c.qualifier with
            | .always => True
            | .anyEnergized => s.energized ≠ 0
            | .contains => ∀ k, mem c.qualifierSteps k = true → mem s.energized k = true
            | .voltageHigh => s.vc.band = .high
            | .fresh => s.hs.freshness ≠ none ∧ due s.clock s.hs.freshness = false
          let asserting := (if c.invert then level < c.threshold else c.threshold ≤ level) ∧ qualified
          let pickup : FilterState := if c.pickup = 0 then .active else .pickingUp (addSec s.clock c.pickup)
          (t.filt f).level = some level ∧ (20000 < raw → t.li.sticky.clampSeen = true)
            ∧ (s.sc.active = none → s.sc.waiting = [] → (∀ w e, s.rl.window ≠ .afterWait w e) →
              (asserting → (t.filt f).asserted = some true) ∧ (¬asserting → (t.filt f).asserted = some false)
              ∧ ((s.filt f).state = .held → (t.filt f).state = .held)
              ∧ (asserting → (s.filt f).state = .quiet → (t.filt f).state = pickup ∧ (t.filt f).rep = false)
              ∧ (asserting → (∃ d, (s.filt f).state = .pickingUp d) → (t.filt f).state = (s.filt f).state)
              ∧ (asserting → ((s.filt f).state = .active ∨ ∃ d, (s.filt f).state = .dropping d) →
                (c.action = .removeLast → (s.filt f).removal = .complete →
                  (t.filt f).state = pickup ∧ (t.filt f).rep = decide (c.pickup ≠ 0))
                ∧ ((c.action ≠ .removeLast ∨ (s.filt f).removal = .none ∨ (s.filt f).removal = .stopped) →
                  (t.filt f).state = .active))
              ∧ (¬asserting → ((s.filt f).state = .quiet ∨ ∃ d, (s.filt f).state = .pickingUp d) →
                (t.filt f).state = .quiet)
              ∧ (¬asserting → (∃ d, (s.filt f).state = .pickingUp d) → (t.filt f).rep = false)
              ∧ (¬asserting → (s.filt f).state = .active → (t.filt f).state =
                if c.dropout ≠ 0 then .dropping (addSec s.clock c.dropout)
                else if c.response = .selfReset then .quiet else .held)
              ∧ (¬asserting → ∀ d, (s.filt f).state = .dropping d → (t.filt f).state = .dropping d)))
      ∧ (∀ f : FilterNo, s.isEnabled f = false →
          (t.filt f).state = (s.filt f).state ∧ (t.filt f).level = (s.filt f).level)
      ∧ t.settings = s.settings ∧ t.yp = s.yp ∧ t.store = s.store ∧ t.vc.vc = s.vc.vc ∧ t.vc.mode = s.vc.mode

/-! ### Inputs -/

/-- RAW_CONTACT_CHANGE times a difference from the filtered value, discards a pending change on the return, and
changes nothing for a level that stands already; an input not yet established starts its steady time anew (R19). Nothing
else of the step's record changes, and the Insertion List and the build stay as they are (R22). -/
def Obligations.RawContactChangeTimesADifference : Prop :=
  ∀ (k : StepNo) (c : Contact) (level : Bool) (s : State), ∃ t, exec (.rawContactChange k c level) s = .next t
    ∧ t = { s with sm := t.sm } ∧ (∀ j, j ≠ k → t.stp j = s.stp j)
    ∧ (t.stp k).contact c = (if ((s.stp k).contact c).raw = level then (s.stp k).contact c
        else ⟨level, ((s.stp k).contact c).filtered,
          if ((s.stp k).contact c).filtered = some level then none
          else some (addMs s.clock (s.cfg k).contactFilter)⟩)
    ∧ (∀ d, d ≠ c → (t.stp k).contact d = (s.stp k).contact d)
    ∧ t.stp k = { s.stp k with posA := (t.stp k).posA, posB := (t.stp k).posB }.settle
    ∧ (t.stp k).state = (s.stp k).state ∧ (t.stp k).sensed = (s.stp k).sensed ∧ (t.stp k).locks = (s.stp k).locks
    ∧ (t.stp k).watch = (s.stp k).watch ∧ (t.stp k).discharge = (s.stp k).discharge
    ∧ t.sm.built = s.sm.built ∧ t.sm.establish = s.sm.establish ∧ (InsertionLaw s → t.sm.insertion = s.sm.insertion)

/-- CONTACT_FILTER_EXPIRY gives the input its raw level; once both are established the sensed position follows Table
2-2, and once the Step Table is built a change of it moves the times and deadlines of the record (R19, R20, R66, R74,
R137). With no operation ACTIVE on the step, its state stays but for a READY step at OPEN, which goes to COOLING with
DISCHARGE-RESTART (R67); the position watch starts on leaving the rest position and is cancelled on the return (R30);
and a LOCKED step at OPEN has OPEN-FAIL replaced by SLOW-OPEN, with its record and its accounting (R32, R76). A change
of sensed position that ends no operation discards a sample in SETTLING and a learning window in SETTLING or
AFTER-WAIT with reason POSITION (R96, R127); a targeted step that reaches the target of the ACTIVE record joins its
arrived set, and the operation goes on while another step is missing (R55). That STEP-LOCK joins for a step that holds
SLOW-OPEN already is an inference: log entry 33. Before the build the expiry that establishes the last of the twelve
inputs builds the Step Table at once by R39's table, each step from its sensed position, with the energized steps in
the Insertion List in step-number order (R19, R22, R33, R39, R74, R137); with another input still not established
nothing is built. -/
def Obligations.ContactFilterExpiryMovesTheSensedPosition : Prop :=
  ∀ (k : StepNo) (c : Contact) (s : State), due s.clock ((s.stp k).contact c).deadline = true →
    ∃ t, exec (.contactFilterExpiry k c) s = .next t
      ∧ (t.stp k).contact c = ⟨((s.stp k).contact c).raw, some ((s.stp k).contact c).raw, none⟩
      ∧ (∀ d, d ≠ c → (t.stp k).contact d = (s.stp k).contact d)
      ∧ (∀ a b, (t.stp k).posA.filtered = some a → (t.stp k).posB.filtered = some b →
          (t.stp k).sensed = some (match a, b with
            | true, false => .closed
            | false, true => .opened
            | false, false => .transit
            | true, true => .invalid))
      ∧ (s.sm.built = true → ∀ p, (t.stp k).sensed = some p → (s.stp k).sensed ≠ some p →
          (t.stp k).openSince = (if p = .opened then some s.clock else none)
          ∧ (t.stp k).closedSince = (if p = .closed then some s.clock else none)
          ∧ (t.stp k).discharge =
              (if p = .opened then some (addSec s.clock (s.cfg k).discharge) else (s.stp k).discharge)
          ∧ (t.stp k).minClosed = (if p = .closed then some (addSec s.clock (s.cfg k).minClosed) else none)
          ∧ (t.stp k).inrush = (if p = .closed then some (addMs s.clock (s.cfg k).inrushHold) else none))
      ∧ (s.sm.built = true → ∀ p, (t.stp k).sensed = some p → (s.stp k).sensed ≠ some p →
          let arrives (a : ActiveOp) : Prop := mem a.op.steps k = true ∧ p = match a.op.kind with
            | .close => .closed
            | .open_ => .opened
          let report (kind : EventKind) (j : StepNo) (id : Byte) (reason : Int) : Prop := s.li.events.length ≤ 50 →
            ⟨s.clock, kind, .info, some j, some id, some reason, none⟩ ∈ t.li.events
          (∀ a, s.sc.active = some a → arrives a → ∃ j, j ≠ k ∧ mem a.missing j = true) →
            (s.sc.active = none → t.sc.active = none)
            ∧ (∀ a, s.sc.active = some a → (arrives a → t.sc.active = some { a with arrived := a.arrived ||| bit k })
              ∧ (¬arrives a → t.sc.active = some a))
            ∧ t.sc.waiting = s.sc.waiting ∧ t.sc.rest = s.sc.rest ∧ t.sc.coils = s.sc.coils ∧ t.sc.nextId = s.sc.nextId
            ∧ (∀ j, j ≠ k → t.stp j = s.stp j) ∧ t.hs = s.hs ∧ t.rl.table = s.rl.table
            ∧ (∀ x d, s.vc.state = .settling x d →
              t.vc = { s.vc with state := .watch } ∧ report .learnDiscarded x.step x.id 2)
            ∧ ((∀ x d, s.vc.state ≠ .settling x d) → t.vc = s.vc)
            ∧ (∀ w, ((∃ e d, s.rl.window = .settling w e d) ∨ ∃ e, s.rl.window = .afterWait w e) →
              t.rl.window = .none ∧ report .resDiscarded w.step w.id 1)
            ∧ ((s.rl.window = .none ∨ ∃ w, s.rl.window = .started w) → t.rl.window = s.rl.window))
      ∧ (s.sm.built = true → (∀ a, s.sc.active = some a → mem a.op.steps k = false) → s.li.events.length ≤ 50 →
          ∀ p, (t.stp k).sensed = some p → (s.stp k).sensed ≠ some p →
          let rest : Option Sensed := match (s.stp k).state with
            | some .closed => some .closed
            | some .offline | some .cooling | some .ready => some .opened
            | _ => none
          ((s.stp k).state = some .ready → p = .opened → (t.stp k).state = some .cooling
              ∧ t.li.sticky.breakerSeen = true
              ∧ ⟨s.clock, .dischargeRestart, .info, some k, none, some ((s.cfg k).discharge : Int), none⟩ ∈ t.li.events)
            ∧ (¬((s.stp k).state = some .ready ∧ p = .opened) → (t.stp k).state = (s.stp k).state)
            ∧ (rest = some p → (t.stp k).watch = none)
            ∧ (rest ≠ none → rest ≠ some p → (s.stp k).sensed = rest →
                (t.stp k).watch = some (addMs s.clock (s.cfg k).operateTimeout))
            ∧ (rest ≠ some p → (rest = none ∨ (s.stp k).sensed ≠ rest) → (t.stp k).watch = (s.stp k).watch)
            ∧ ((s.stp k).state = some .locked → p = .opened → hasLock (s.stp k).locks .openFail = true →
                hasLock (t.stp k).locks .openFail = false ∧ hasLock (t.stp k).locks .slowOpen = true
                ∧ (∀ r, r ≠ .openFail → r ≠ .slowOpen → hasLock (t.stp k).locks r = hasLock (s.stp k).locks r)
                ∧ (t.stp k).openCount = min ((s.stp k).openCount + 1) (max (s.stp k).openCount (2 ^ 32 - 1))
                ∧ t.li.sticky.breakerSeen = true
                ∧ ⟨s.clock, .stepLock, .alarm, some k, none, some 3, none⟩ ∈ t.li.events)
            ∧ (¬((s.stp k).state = some .locked ∧ p = .opened ∧ hasLock (s.stp k).locks .openFail = true) →
                (t.stp k).locks = (s.stp k).locks ∧ (t.stp k).openCount = (s.stp k).openCount))
      ∧ (s.sm.built = false →
          let others := ∀ (j : StepNo) (d : Contact), (j ≠ k ∨ d ≠ c) → ((s.stp j).contact d).filtered ≠ none
          (∀ j, j ≠ k → (t.stp j).sensed = (s.stp j).sensed)
            ∧ (¬others → t = { s with sm := t.sm } ∧ t.sm.built = false
              ∧ ((s.stp k).state = none → InsertionLaw s → t.sm.insertion = s.sm.insertion)
              ∧ (∀ j, j ≠ k → t.stp j = s.stp j) ∧ (t.stp k).state = (s.stp k).state
              ∧ (t.stp k).locks = (s.stp k).locks)
            ∧ (others → t.sm.built = true ∧ t.sm.establish = s.sm.establish)
            ∧ (others → s.sc.active = none → s.sc.waiting = [] → s.sm.insertion = [] → s.li.events.length ≤ 50 →
              (∀ j, (s.stp j).state = none ∧ (s.stp j).locks = 0 ∧ (s.stp j).watch = none) →
              (∀ (j : StepNo) (p : Sensed), (t.stp j).sensed = some p →
                let r := t.stp j
                let lockedFor (reason : LockReason) (cls : EvClass) : Prop := r.state = some .locked
                  ∧ r.locks = reason.mask ∧ t.li.sticky.breakerSeen = true
                  ∧ ⟨s.clock, .stepLock, cls, some j, none, some (reason.code : Int), none⟩ ∈ t.li.events
                r.commanded = (if p = .closed then .closed else .opened) ∧ r.watch = none
                  ∧ (p = .opened → r.state = some (if s.inService j then .cooling else .offline) ∧ r.locks = 0
                    ∧ r.openSince = some 0 ∧ r.discharge = some (addSec 0 (s.cfg j).discharge))
                  ∧ (p = .closed → r.closedSince = some s.clock
                    ∧ r.minClosed = some (addSec s.clock (s.cfg j).minClosed)
                    ∧ r.inrush = some (addMs s.clock (s.cfg j).inrushHold)
                    ∧ (s.inService j = true → r.state = some .closed ∧ r.locks = 0)
                    ∧ (s.inService j = false → lockedFor .uncommanded .trip))
                  ∧ ((p = .transit ∨ p = .invalid) → lockedFor .positionInvalid .alarm)
                  ∧ mem t.energized j = decide (p ≠ .opened))
              ∧ t.sm.insertion = [0, 1, 2, 3, 4, 5].filter (mem t.energized) ∧ t.sc = s.sc))
      ∧ t.settings = s.settings ∧ t.yp = s.yp ∧ t.mu = s.mu ∧ t.store = s.store

/-- ESTABLISH_LIMIT at its time establishes every input that is not established yet with its raw level, BLOCK among
them, and with that the Step Table is built by R39's table: an OPEN step is COOLING or OFFLINE with open-since 0 and
its discharge deadline DISCHARGE after it, a CLOSED step CLOSED or LOCKED with UNCOMMANDED, a step in TRANSIT or
INVALID LOCKED with POSITION-INVALID; each has its commanded position, a CLOSED one its closed-since, minimum-closed
deadline and inrush hold, a locked one its STEP-LOCK record; and every step that is not OPEN is energized, in
step-number order (R19, R22, R33, R39, R63, R74, R137). -/
def Obligations.EstablishLimitBuildsTheStepTable : Prop :=
  ∀ s : State, due s.clock s.sm.establish = true → ∃ t, exec .establishLimit s = .next t
    ∧ t.sm.establish = none ∧ t.sm.built = true
    ∧ (∀ (k : StepNo) (c : Contact), ((s.stp k).contact c).filtered = none →
        (t.stp k).contact c = ⟨((s.stp k).contact c).raw, some ((s.stp k).contact c).raw, none⟩)
    ∧ (∀ (k : StepNo) (c : Contact), ((s.stp k).contact c).filtered ≠ none →
        (t.stp k).contact c = (s.stp k).contact c)
    ∧ t.sc.block = (if s.sc.block.filtered = none then ⟨s.sc.block.raw, some s.sc.block.raw, none⟩ else s.sc.block)
    ∧ (s.sm.built = false → s.sc.active = none → s.sc.waiting = [] → s.sm.insertion = [] →
        (∀ k, (s.stp k).state = none ∧ (s.stp k).locks = 0 ∧ (s.stp k).watch = none) → s.li.events.length ≤ 50 →
        (∀ k : StepNo,
          let r := t.stp k
          let c := s.cfg k
          let position : Sensed := match r.posA.filtered, r.posB.filtered with
            | some true, some false => .closed
            | some false, some true => .opened
            | some false, some false => .transit
            | _, _ => .invalid
          let lockedFor (reason : LockReason) (cls : EvClass) : Prop := r.state = some .locked ∧ r.locks = reason.mask
            ∧ ⟨s.clock, .stepLock, cls, some k, none, some (reason.code : Int), none⟩ ∈ t.li.events
            ∧ t.li.sticky.breakerSeen = true
          r.sensed = some position ∧ r.commanded = (if position = .closed then .closed else .opened)
            ∧ r.watch = none ∧ r.closeList = (s.stp k).closeList ∧ r.closeCount = (s.stp k).closeCount
            ∧ r.openCount = (s.stp k).openCount ∧ r.lastOp = (s.stp k).lastOp
            ∧ (position = .opened → r.state = some (if s.inService k then .cooling else .offline) ∧ r.locks = 0
              ∧ r.openSince = some 0 ∧ r.discharge = some (addSec 0 c.discharge))
            ∧ (position = .closed → r.closedSince = some s.clock ∧ r.minClosed = some (addSec s.clock c.minClosed)
              ∧ r.inrush = some (addMs s.clock c.inrushHold)
              ∧ (s.inService k = true → r.state = some .closed ∧ r.locks = 0)
              ∧ (s.inService k = false → lockedFor .uncommanded .trip))
            ∧ ((position = .transit ∨ position = .invalid) → lockedFor .positionInvalid .alarm)
            ∧ mem t.energized k = decide (position ≠ .opened))
          ∧ t.sm.insertion = [0, 1, 2, 3, 4, 5].filter (mem t.energized)
          ∧ t.sc = { s.sc with block := t.sc.block })
    ∧ t.settings = s.settings ∧ t.yp = s.yp ∧ t.mu = s.mu ∧ t.store = s.store

/-- BLOCK_INPUT_CHANGE times a difference for 20 ms, and BLOCK_FILTER_EXPIRY gives the input its raw level and
appends BLOCK-ON or BLOCK-OFF exactly when effective BLOCK changes (R63). -/
def Obligations.BlockInputIsFilteredAndReported : Prop :=
  (∀ (level : Bool) (s : State), exec (.blockInputChange level) s = .next { s with sc := { s.sc with
      block := if s.sc.block.raw = level then s.sc.block
        else ⟨level, s.sc.block.filtered,
          if s.sc.block.filtered = some level then none else some (addMs s.clock 20)⟩ } })
    ∧ ∀ s : State, due s.clock s.sc.block.deadline = true → ∃ t, exec .blockFilterExpiry s = .next t
        ∧ t.sc = { s.sc with block := ⟨s.sc.block.raw, some s.sc.block.raw, none⟩ }
        ∧ t = { s with sc := t.sc, li := t.li }
        ∧ (t.blocked = s.blocked → t.li = s.li)
        ∧ (t.blocked ≠ s.blocked → t.li = s.li.append s.settings.yard.attnClass
            ⟨s.clock, if t.blocked then .blockOn else .blockOff, .info, none, none,
              some (s.settings.yard.blockOverride.code : Int), none⟩)

/-! ### Steps -/

/-- POSITION_WATCH_EXPIRY makes the transition of Table 2-6 from the step's state and sensed position with its event
(R31, R33): EXTERNAL-OPEN is counted an opening (R76), UNCOMMANDED-CLOSE an accounted close in the list and in the count
(R69, R70), and a lock changes no count. A state and a position that are not in the table change nothing more. -/
def Obligations.PositionWatchExpiryFollowsItsTable : Prop :=
  ∀ (k : StepNo) (s : State), due s.clock (s.stp k).watch = true → (s.stp k).locks = 0 →
    ∃ t, exec (.positionWatchExpiry k) s = .next t ∧ (t.stp k).watch = none
      ∧ (∀ j, j ≠ k → t.stp j = s.stp j) ∧ (t.stp k).sensed = (s.stp k).sensed ∧
      let r := s.stp k
      let u := t.stp k
      let counted (n m : Nat) := m = if n < 2 ^ 32 - 1 then n + 1 else n
      let noted (kind : EventKind) (cls : EvClass) (value : Option Int) : Prop := t.li.sticky.breakerSeen = true
        ∧ (s.li.events.length ≤ 50 → ⟨s.clock, kind, cls, some k, none, value, none⟩ ∈ t.li.events)
      let lockedFor (reason : LockReason) (cls : EvClass) : Prop := u.state = some .locked ∧ u.locks = reason.mask
        ∧ mem t.energized k = true ∧ u.closeList = r.closeList ∧ u.closeCount = r.closeCount ∧ u.openCount = r.openCount
        ∧ u.commanded = r.commanded ∧ noted .stepLock cls (some (reason.code : Int))
      let resting := r.state = some .ready ∨ r.state = some .cooling ∨ r.state = some .offline
      u.lastOp = r.lastOp
        ∧ (r.state = some .closed → r.sensed = some .opened → u.state = some (r.openStateAt s.clock)
          ∧ u.commanded = .opened ∧ mem t.energized k = false ∧ counted r.openCount u.openCount
          ∧ u.closeList = r.closeList ∧ u.closeCount = r.closeCount ∧ noted .externalOpen .alarm none)
        ∧ (r.state = some .ready → r.sensed = some .closed → u.state = some .closed ∧ u.commanded = .closed
          ∧ u.closeList = (if 8 ≤ r.closeList.length then r.closeList.tail else r.closeList) ++ [s.clock]
          ∧ counted r.closeCount u.closeCount ∧ u.openCount = r.openCount ∧ mem t.energized k = true
          ∧ noted .uncommandedClose .alarm none)
        ∧ ((r.state = some .cooling ∨ r.state = some .offline) → r.sensed = some .closed → lockedFor .uncommanded .trip)
        ∧ ((r.state = some .closed ∨ resting) → (r.sensed = some .transit ∨ r.sensed = some .invalid) →
          lockedFor .positionInvalid .alarm)
        ∧ (((r.state = some .closed ∧ r.sensed = some .closed) ∨ (resting ∧ r.sensed = some .opened)) →
          t = { s with sm := t.sm } ∧ u = { r with watch := none }.settle
            ∧ (InsertionLaw s → t.sm.insertion = s.sm.insertion))
        ∧ t.settings = s.settings ∧ t.yp = s.yp ∧ t.mu = s.mu ∧ t.vc = s.vc ∧ t.hs = s.hs
        ∧ t.sc.active = s.sc.active ∧ t.sc.waiting = s.sc.waiting

/-- DISCHARGE_EXPIRY makes the deadline absent; a COOLING step becomes READY and a step in another state keeps it
(R68). A pending retry of it that waits without a deadline becomes a CLOSE request at the move to READY, with cause
RETRY and the carried class, requester and attempt number; one whose deadline still runs stays pending (R60). The
channel is shown occupied by another step's operation, with room in the waiting list. -/
def Obligations.DischargeExpiryMakesACoolingStepReady : Prop :=
  (∀ (k : StepNo) (s : State), due s.clock (s.stp k).discharge = true → s.sc.retries[k] = none →
    ∃ t, exec (.dischargeExpiry k) s = .next t ∧ (t.stp k).discharge = none
      ∧ (t.stp k).state = (if (s.stp k).state = some .cooling then some .ready else (s.stp k).state)
      ∧ (t.stp k).sensed = (s.stp k).sensed ∧ (t.stp k).locks = (s.stp k).locks
      ∧ (t.stp k).commanded = (s.stp k).commanded ∧ (t.stp k).watch = (s.stp k).watch
      ∧ (∀ j, j ≠ k → t.stp j = s.stp j) ∧ t.settings = s.settings ∧ t.vc = s.vc ∧ t.hs = s.hs ∧ t.yp = s.yp
      ∧ t.sc.active = s.sc.active ∧ t.sc.waiting = s.sc.waiting)
    ∧ ∀ (k : StepNo) (s : State) (r : Retry) (a : ActiveOp), due s.clock (s.stp k).discharge = true →
      (s.stp k).state = some .cooling → s.sc.retries[k] = some r → s.sc.active = some a → a.missing ≠ 0 →
      mem a.op.steps k = false → s.sc.waiting = [] → ∃ t, exec (.dischargeExpiry k) s = .next t
        ∧ (t.stp k).state = some .ready ∧ (t.stp k).discharge = none ∧ (∀ j, j ≠ k → t.stp j = s.stp j)
        ∧ (r.deadline = none → t.sc = { s.sc with
            retries := s.sc.retries.set k none, nextId := s.sc.nextId + 1, bktrip := t.sc.bktrip
            waiting := [⟨s.sc.nextId, .close, bit k, r.cls, .retry, r.requester, [], r.attempt, s.clock⟩] })
        ∧ (r.deadline ≠ none → t.sc = { s.sc with bktrip := t.sc.bktrip })
        ∧ t.settings = s.settings ∧ t.vc = s.vc ∧ t.hs = s.hs ∧ t.yp = s.yp

/-- CLOSE_LIST_LEAVE_EXPIRY and TRIP_TIME_LEAVE_EXPIRY take the head out of their list and form the deadline from
the new head; REST-END is appended exactly when the step stops resting (R71, R72, R159). -/
def Obligations.ListLeaveExpiryTakesTheHead : Prop :=
  (∀ (k : StepNo) (s : State), due s.clock (s.stp k).leave = true → ∃ t, exec (.closeListLeaveExpiry k) s = .next t
      ∧ t = { s with sm := t.sm, li := t.li } ∧ (∀ j, j ≠ k → t.stp j = s.stp j)
      ∧ (t.stp k).closeList = (s.stp k).closeList.tail
      ∧ (t.stp k).leave = ((s.stp k).closeList.tail.head?.map fun h => addHour h (s.cfg k).restWindow)
      ∧ (t.stp k).state = (s.stp k).state ∧ (t.stp k).closeCount = (s.stp k).closeCount
      ∧ (s.resting k = t.resting k → t.li = s.li)
      ∧ (s.resting k = true → t.resting k = false → t.li = s.li.append s.settings.yard.attnClass
          ⟨s.clock, .restEnd, .info, some k, none, some ((s.stp k).closeList.tail.length : Int),
            some ((s.cfg k).closeLimit : Int)⟩))
    ∧ ∀ s : State, due s.clock s.yp.leave = true → exec .tripTimeLeaveExpiry s = .next { s with
        yp := { s.yp with
          times := s.yp.times.tail
          leave := s.yp.times.tail.head?.map fun h => addHour h s.settings.yard.retryWindow } }

/-- Deadlines whose expiry makes them absent and does no more: MIN_CLOSED_EXPIRY, INRUSH_HOLD_EXPIRY,
PULSE_DEADLINE_EXPIRY, FRESHNESS_EXPIRY, and RES_SETTLE_EXPIRY with its move to AFTER-WAIT
(R54, R74, R106, R126, R137). The Insertion List and the build stay as they are (R22). -/
def Obligations.PlainDeadlinesClearAndDoNoMore : Prop :=
  (∀ (k : StepNo) (s : State), due s.clock (s.stp k).minClosed = true → ∃ t, exec (.minClosedExpiry k) s = .next t
      ∧ t = { s with sm := t.sm } ∧ (∀ j, j ≠ k → t.stp j = s.stp j)
      ∧ t.stp k = { s.stp k with minClosed := none }.settle
      ∧ t.sm.built = s.sm.built ∧ t.sm.establish = s.sm.establish ∧ (InsertionLaw s → t.sm.insertion = s.sm.insertion))
    ∧ (∀ (k : StepNo) (s : State), due s.clock (s.stp k).inrush = true → ∃ t, exec (.inrushHoldExpiry k) s = .next t
      ∧ t = { s with sm := t.sm } ∧ (∀ j, j ≠ k → t.stp j = s.stp j)
      ∧ t.stp k = { s.stp k with inrush := none }.settle
      ∧ t.sm.built = s.sm.built ∧ t.sm.establish = s.sm.establish ∧ (InsertionLaw s → t.sm.insertion = s.sm.insertion))
    ∧ (∀ (k : StepNo) (s : State), due s.clock s.sc.coils[k].close = true →
        exec (.pulseDeadlineExpiry k .closeCoil) s = .next { s with sc := { s.sc with
          coils := s.sc.coils.set k ⟨none, s.sc.coils[k].open_⟩ } })
    ∧ (∀ (k : StepNo) (s : State), due s.clock s.sc.coils[k].open_ = true →
        exec (.pulseDeadlineExpiry k .openCoil) s = .next { s with sc := { s.sc with
          coils := s.sc.coils.set k ⟨s.sc.coils[k].close, none⟩ } })
    ∧ (∀ s : State, due s.clock s.hs.freshness = true →
        exec .freshnessExpiry s = .next { s with hs := { s.hs with freshness := none } })
    ∧ ∀ (s : State) (w : WindowStart) (c : Comb) (d : Clock), s.rl.window = .settling w c d →
        passed s.clock d = true →
        exec .resSettleExpiry s = .next { s with rl := { s.rl with window := .afterWait w c } }

/-! ### The Switching Channel -/

/-- OPERATION_TIMEOUT of an OPEN with a step not arrived: the slot empties, the outputs of its steps are released, the
rest deadline is set, every missing step is LOCKED with OPEN-FAIL and its STEP-LOCK and BKTRIP is asserted (R28, R56,
R57, R61); the learning window of the operation is forgotten (R125). OP-FAIL joins with the missing steps and the
failure kind of the first of them (R56). BKTRIP-ON names the step that caused it: with several missing steps that is
the first of them, by the model's choice that the steps take their outcomes in step-number order (log entry 11). A
step that did arrive is counted a success: OPENING to READY or COOLING by its discharge deadline, with its opening and
the operation recorded (R27, R57, R76). The controller that awaits the operation and the filters whose removal it is
are told FAILED (R93, R114). -/
def Obligations.FailedOpenLocksItsStepsAndAssertsBktrip : Prop :=
  ∀ (s : State) (a : ActiveOp), s.sc.active = some a → a.op.kind = .open_ → passed s.clock a.timeout = true →
    a.missing ≠ 0 → s.sc.waiting = [] → ∃ t, exec .operationTimeout s = .next t ∧
      let told (b : Requester) := a.op.requester = b ∨ b ∈ a.op.joined
      let failure (k : StepNo) : Int := if (s.stp k).sensed = a.startPos[k] then 0
        else if (s.stp k).sensed = some .transit then 1 else if (s.stp k).sensed = some .invalid then 2 else 3
      let counted (n m : Nat) := m = if n < 2 ^ 32 - 1 then n + 1 else n
      t.sc.active = none ∧ t.sc.waiting = []
      ∧ t.sc.rest = some (addSec s.clock s.settings.yard.restInterval)
      ∧ (∀ k, mem a.op.steps k = true → t.sc.coils[k] = ⟨none, none⟩)
      ∧ (∀ k, mem a.op.steps k = false → t.sc.coils[k] = s.sc.coils[k] ∧ t.stp k = s.stp k)
      ∧ (∀ k, mem a.missing k = true → hasLock (t.stp k).locks .openFail = true)
      ∧ (∀ k, mem a.missing k = true → hasLock (s.stp k).locks .openFail = false → (t.stp k).state = some .locked)
      ∧ (∀ k, mem a.missing k = true → (t.stp k).lastOp = (s.stp k).lastOp ∧ (t.stp k).openCount = (s.stp k).openCount
          ∧ (t.stp k).closeList = (s.stp k).closeList ∧ (t.stp k).commanded = (s.stp k).commanded
          ∧ (hasLock (s.stp k).locks .openFail = false → s.li.events.length ≤ 50 →
            ⟨s.clock, .stepLock, .trip, some k, none, some 2, none⟩ ∈ t.li.events))
      ∧ (∀ k, mem a.missing k = true → (∀ j, j < k → mem a.missing j = false) → s.li.events.length ≤ 50 →
          ⟨s.clock, .opFail, .trip, some k, some a.op.id, some (a.missing.toNat : Int), some (failure k)⟩ ∈ t.li.events
          ∧ (BktripLaw s → s.sc.bktrip = false →
            ⟨s.clock, .bktripOn, .trip, some k, none, none, none⟩ ∈ t.li.events))
      ∧ (∀ k, mem a.op.steps k = true → mem a.arrived k = true → (t.stp k).lastOp = some a.op.id
          ∧ counted (s.stp k).openCount (t.stp k).openCount ∧ (t.stp k).closeList = (s.stp k).closeList
          ∧ (t.stp k).locks = (s.stp k).locks ∧ (t.stp k).discharge = (s.stp k).discharge
          ∧ (t.stp k).state = (if (s.stp k).state ≠ some .opening then (s.stp k).state else some
            (if (s.stp k).discharge = none ∨ due s.clock (s.stp k).discharge = true then .ready else .cooling)))
      ∧ t.vc = (match s.vc.state with
          | .awaiting x => if told .vc ∧ x.id = a.op.id then { s.vc with state := .watch } else s.vc
          | _ => s.vc)
      ∧ (∀ f : FilterNo, t.filt f = if told .hs ∧ (s.filt f).removal = .inHand a.op.id then
          { s.filt f with removal := .stopped } else s.filt f)
      ∧ t.hs.freshness = s.hs.freshness ∧ t.hs.block = s.hs.block
      ∧ t.sc.bktrip = true ∧ t.li.sticky.breakerSeen = true
      ∧ (∀ w, s.rl.window = .started w → t.rl.window = if w.id = a.op.id then .none else .started w)
      ∧ t.settings = s.settings ∧ t.yp = s.yp ∧ t.mu = s.mu ∧ t.store = s.store

/-- OPERATION_TIMEOUT of a CLOSE whose step has not arrived: to a step still CLOSING the disposition of R58 is applied
(R26, R57 to R59); a step LOCKED meanwhile stays LOCKED with CLOSE-FAIL added whatever the disposition, and no retry
follows (R29, R58). OP-FAIL joins with the step and its failure kind (R56, R57), the controller that awaits the
operation is told FAILED (R93), and the learning window of the operation is forgotten (R125). -/
def Obligations.FailedCloseIsDisposedOf : Prop :=
  ∀ (s : State) (a : ActiveOp) (k : StepNo), s.sc.active = some a → a.op.kind = .close → a.op.steps = bit k →
    a.arrived = 0 → passed s.clock a.timeout = true → s.sc.waiting = [] → s.sc.retries[k] = none →
    ((s.stp k).state = some .closing ∨ (s.stp k).state = some .locked) → ∃ t, exec .operationTimeout s = .next t ∧
      let told (b : Requester) := a.op.requester = b ∨ b ∈ a.op.joined
      let failure (k : StepNo) : Int := if (s.stp k).sensed = a.startPos[k] then 0
        else if (s.stp k).sensed = some .transit then 1 else if (s.stp k).sensed = some .invalid then 2 else 3
      (s.li.events.length ≤ 50 →
          ⟨s.clock, .opFail, .alarm, some k, some a.op.id, some ((bit k).toNat : Int), some (failure k)⟩ ∈ t.li.events)
      ∧ t.vc = (match s.vc.state with
          | .awaiting x => if told .vc ∧ x.id = a.op.id then { s.vc with state := .watch } else s.vc
          | _ => s.vc)
      ∧ (∀ f : FilterNo, t.filt f = if told .hs ∧ (s.filt f).removal = .inHand a.op.id then
          { s.filt f with removal := .stopped } else s.filt f)
      ∧ t.hs.freshness = s.hs.freshness ∧ t.hs.block = s.hs.block
      ∧ t.sc.active = none ∧ t.sc.rest = some (addSec s.clock s.settings.yard.restInterval)
      ∧ t.sc.coils[k] = ⟨none, none⟩ ∧ t.li.sticky.breakerSeen = true ∧ (∀ j, j ≠ k → t.stp j = s.stp j)
      ∧ (∀ w, s.rl.window = .started w → t.rl.window = if w.id = a.op.id then .none else .started w)
      ∧ ((s.stp k).state = some .locked → (t.stp k).state = some .locked
        ∧ (t.stp k).locks = (s.stp k).locks ||| LockReason.closeFail.mask ∧ t.sc.retries[k] = none
        ∧ (hasLock (s.stp k).locks .closeFail = false → s.li.events.length ≤ 50 →
          ⟨s.clock, .stepLock, .alarm, some k, none, some 1, none⟩ ∈ t.li.events))
      ∧ ((s.stp k).state = some .closing → (s.stp k).locks = 0 →
          (((s.cfg k).closeFailMode = .lock
              ∨ ((s.cfg k).closeFailMode = .retry
                ∧ ((s.stp k).sensed ≠ some .opened ∨ 1 + (s.cfg k).retryCount ≤ a.op.attempt))) →
            (t.stp k).state = some .locked ∧ (t.stp k).locks = LockReason.closeFail.mask ∧ t.sc.retries[k] = none)
        ∧ ((s.cfg k).closeFailMode = .retry → (s.stp k).sensed = some .opened →
            a.op.attempt < 1 + (s.cfg k).retryCount →
            (t.stp k).state = some (s.stp k).openState ∧ (t.stp k).commanded = .opened
            ∧ t.sc.retries[k] = some ⟨a.op.cls, a.op.requester, a.op.attempt + 1, a.op.id,
                some (addSec s.clock (s.cfg k).retryInterval)⟩)
        ∧ ((s.cfg k).closeFailMode = .report → (s.stp k).sensed = some .opened →
            (t.stp k).state = some (s.stp k).openState ∧ (t.stp k).commanded = .opened ∧ t.sc.retries[k] = none)
        ∧ ((s.cfg k).closeFailMode = .report → (s.stp k).sensed = some .closed →
            (t.stp k).state = some .closed ∧ (t.stp k).closeList.getLast? = some s.clock ∧ t.sc.retries[k] = none)
        ∧ ((s.cfg k).closeFailMode = .report →
            ((s.stp k).sensed = some .transit ∨ (s.stp k).sensed = some .invalid) →
            (t.stp k).state = some .locked ∧ (t.stp k).locks = LockReason.positionInvalid.mask))

/-- CHANNEL_REST_EXPIRY makes the deadline absent and attempts a start: with nothing waiting that is all, and a
waiting CLOSE that passes its start check becomes ACTIVE with its output asserted and its step CLOSING
(R23, R50, R51, R53, R62). The Voltage Controller that awaits it takes the held Vc for its sample (R93). A learning
window pending is discarded, and one opens for a CONTROL or DIRECTED operation on the latest Spectrum Frame, or
RES-DISCARDED says NO-SPECTRUM when none has completed (R124). -/
def Obligations.ChannelRestExpiryStartsTheWaitingClose : Prop :=
  (∀ s : State, due s.clock s.sc.rest = true → s.sc.waiting = [] → s.sc.active = none →
      exec .channelRestExpiry s = .next { s with sc := { s.sc with rest := none } })
    ∧ ∀ (s : State) (o : OpRec) (k : StepNo), due s.clock s.sc.rest = true → s.sc.active = none →
        s.sm.built = true → s.sc.waiting = [o] → o.kind = .close → o.steps = bit k → closeCheck o k s = none →
        (s.stp k).sensed = some .opened → ∃ t a, exec .channelRestExpiry s = .next t
          ∧ t.sc.active = some a ∧ a.op = o ∧ a.start = s.clock ∧ a.arrived = 0
          ∧ a.timeout = addMs s.clock (s.cfg k).operateTimeout ∧ a.startPos[k] = some .opened
          ∧ t.sc.waiting = [] ∧ t.sc.rest = none
          ∧ t.sc.coils[k].close = some (addMs s.clock (s.cfg k).closePulse)
          ∧ (t.stp k).state = some .closing ∧ (t.stp k).commanded = .closed ∧ (t.stp k).watch = none
          ∧ (∀ j, j ≠ k → t.stp j = s.stp j ∧ t.sc.coils[j] = s.sc.coils[j])
          ∧ (∀ x, s.vc.state = .awaiting x → x.id = o.id → t.vc.state = .awaiting { x with vBefore := s.vc.vc })
          ∧ t.rl.table = s.rl.table
          ∧ (o.cls = .protection → t.rl.window = .none)
          ∧ (o.cls ≠ .protection → ∀ g, s.mu.spectrum = some g → t.rl.window = .started ⟨o.id, .close, k, g.vh⟩)
          ∧ (o.cls ≠ .protection → s.mu.spectrum = none → t.rl.window = .none
            ∧ (s.li.events.length ≤ 50 →
              ⟨s.clock, .resDiscarded, .info, some k, some o.id, some 8, none⟩ ∈ t.li.events))
          ∧ (∀ w c, s.rl.window = .afterWait w c → s.li.events.length ≤ 50 →
            ⟨s.clock, .resDiscarded, .info, some w.step, some w.id, some 0, none⟩ ∈ t.li.events)
          ∧ t.settings = s.settings ∧ t.yp = s.yp ∧ t.mu = s.mu

/-- Whenever a move of the channel makes a CLOSE ACTIVE, its step was READY and not resting, no inhibitor that bars
the class was present, and for class CONTROL the combination it leads to was neither VETOED nor PINNED (R51). At a
start attempt with one record waiting, shown at CHANNEL_REST_EXPIRY, a CLOSE that fails its check is dropped with the
reason of the first test of Table 3-3 that fails, and an OPEN starts with the steps the check of R52 leaves or is
dropped when it leaves none (R50 to R53). A drop tells the requester and appends OP-DROPPED, with the steps the record
waited with (for an emptied OPEN the model's choice: log entry 32). -/
def Obligations.NoCloseStartsAgainstTheStartCheck : Prop :=
  (∀ (s t : State) (a : ActiveOp), channelMove s = some t → t.sc.active = some a → a.op.kind = .close →
    s.sc.active = none ∧ s.sc.rest = none ∧ s.sm.built = true
      ∧ ∃ k, (stepsOf a.op.steps).head? = some k ∧ (s.stp k).state = some .ready
        ∧ (s.stp k).closeList.length < (s.cfg k).closeLimit
        ∧ s.blocked = false ∧ s.yp.trip = .normal ∧ s.yp.ov1 = .quiet ∧ s.hs.block = false
        ∧ (a.op.cls = .control → (s.stp k).alarmFlag = false ∧ s.vtLoss = false
            ∧ (s.entry (s.energized ||| bit k)).state ≠ .vetoed
            ∧ (s.entry (s.energized ||| bit k)).state ≠ .pinned))
    ∧ ∀ (s : State) (o : OpRec), due s.clock s.sc.rest = true → s.sc.active = none → s.sm.built = true →
      s.sc.waiting = [o] → ∃ t, exec .channelRestExpiry s = .next t ∧
        let told (b : Requester) := o.requester = b ∨ b ∈ o.joined
        let dropped (reason : Int) : Prop := t.sc = { s.sc with rest := none, waiting := [] }
          ∧ (∀ x, s.vc.state = .awaiting x → told .vc → x.id = o.id → t.vc = { s.vc with state := .watch })
          ∧ ((∀ x, s.vc.state = .awaiting x → ¬(told .vc ∧ x.id = o.id)) → t.vc = s.vc)
          ∧ (∀ f : FilterNo, (t.filt f).removal =
              if told .hs ∧ (s.filt f).removal = .inHand o.id then .complete else (s.filt f).removal)
          ∧ (s.li.events.length ≤ 50 → ⟨s.clock, .opDropped, .info, single o.steps, some o.id,
              some (o.steps.toNat : Int), some reason⟩ ∈ t.li.events)
          ∧ t = { s with sc := t.sc, vc := t.vc, hs := t.hs, li := t.li }
        let kept (k : StepNo) : Prop := mem o.steps k = true ∧ mem s.energized k = true
          ∧ (o.cls = .control → (s.stp k).state = some .closed ∧ (s.stp k).closedSince ≠ none
              ∧ (s.stp k).minClosed = none)
        (∀ k, o.kind = .close → o.steps = bit k → o.cls ≠ .protection →
            let control := o.cls = .control
            let e := (s.entry (s.energized ||| bit k)).state
            let failing := [decide ((s.stp k).state ≠ some .ready),
              decide ((s.cfg k).closeLimit ≤ (s.stp k).closeList.length),
              decide (control ∧ (s.stp k).alarmFlag = true), s.blocked, decide (s.yp.trip ≠ .normal),
              decide (s.yp.ov1 ≠ .quiet), s.hs.block, decide (control ∧ s.vtLoss = true),
              decide (control ∧ e = .vetoed), decide (control ∧ e = .pinned)]
            ∀ i, failing.findIdx? id = some i → dropped i)
          ∧ (o.kind = .open_ → (∀ k, ¬kept k) → dropped (if o.cls = .control then 11 else 10))
          ∧ (o.kind = .open_ → (∃ k, kept k ∧ (s.stp k).sensed ≠ some .opened) →
            ∃ a, t.sc.active = some a ∧ a.op = { o with steps := a.op.steps } ∧ a.start = s.clock
              ∧ t.sc.waiting = [] ∧ t.sc.rest = none ∧ t.sc.nextId = s.sc.nextId
              ∧ (∀ k, mem a.op.steps k = true ↔ kept k)
              ∧ (∀ k, mem a.arrived k = true ↔ kept k ∧ (s.stp k).sensed = some .opened)
              ∧ (∀ k, kept k → t.sc.coils[k].open_ = some (addMs s.clock (s.cfg k).openPulse)
                ∧ (t.stp k).commanded = .opened ∧ a.startPos[k] = (s.stp k).sensed
                ∧ (((s.stp k).state = some .closed ∨ (s.stp k).state = some .closing) →
                  (t.stp k).state = some .opening)
                ∧ ((s.stp k).state = some .locked → (t.stp k).state = some .locked))
              ∧ (∀ k, ¬kept k → t.stp k = s.stp k ∧ t.sc.coils[k] = s.sc.coils[k])
              ∧ (s.li.events.length ≤ 50 → ⟨s.clock, .opStart, .info, single a.op.steps, some o.id,
                some (a.op.steps.toNat : Int), some ((16 + o.cause.code : Nat) : Int)⟩ ∈ t.li.events))

/-- RETRY_DEADLINE_EXPIRY: a retry whose step is not READY waits on without a deadline; one whose step is READY ends
as a CLOSE request with cause RETRY and the carried class, requester and attempt number (R60). The channel is shown
occupied by another step's operation, with room in the waiting list. -/
def Obligations.RetryDeadlineExpiryMakesTheRequest : Prop :=
  ∀ (k : StepNo) (s : State) (r : Retry), s.sc.retries[k] = some r → due s.clock r.deadline = true →
    ((s.stp k).state ≠ some .ready → exec (.retryDeadlineExpiry k) s = .next { s with sc := { s.sc with
        retries := s.sc.retries.set k (some { r with deadline := none }) } })
      ∧ ∀ a, (s.stp k).state = some .ready → s.sc.active = some a → a.missing ≠ 0 → mem a.op.steps k = false →
          s.sc.waiting = [] → exec (.retryDeadlineExpiry k) s = .next { s with sc := { s.sc with
            retries := s.sc.retries.set k none, nextId := s.sc.nextId + 1
            waiting := [⟨s.sc.nextId, .close, bit k, r.cls, .retry, r.requester, [], r.attempt, s.clock⟩] } }

/-- A PROTECTION OPEN is never refused, whatever the queue holds. One of the step of the ACTIVE CLOSE takes it over in
one event: the CLOSE output is released, the OPEN output asserted, the step is OPENING and commanded OPEN, and the
rest deadline is as it was (R24, R45, R46, R48). OP-ABORTED and OP-START join, a controller that awaits the CLOSE is
told ABORTED and goes to WATCH, a sample in SETTLING is discarded, a filter keeps its removal, and the learning window
of the CLOSE is forgotten; another one is discarded by the start (R93, R96, R114, R124, R125). Whether RES-DISCARDED
joins for the window of the CLOSE itself is left free (log entry 6). One of a step the ACTIVE record does not name
waits after the PROTECTION records (R42), merges into the WAITING OPEN of the step and raises it, or supersedes its
WAITING CLOSE (R45); with four records waiting it displaces the newest CONTROL record, or else the newest DIRECTED
one, or joins its step to the newest PROTECTION record when all four are PROTECTION (R48). A record removed is told
CANCELLED, with OP-CANCELLED (R93, R114). -/
def Obligations.ProtectionOpenIsNeverRefusedAndTakesOver : Prop :=
  ∀ (q : OpReq) (k : StepNo) (s : State), q.kind = .open_ → q.cls = .protection →
    let w := s.sc.waiting
    let answer := (request q k s).1
    let t := (request q k s).2
    let cancelled (o : OpRec) (reason : Int) (t : State) : Prop :=
      let told (b : Requester) := o.requester = b ∨ b ∈ o.joined
      (∀ x, s.vc.state = .awaiting x → told .vc → x.id = o.id → t.vc.state = .watch)
        ∧ ((∀ x, s.vc.state = .awaiting x → ¬(told .vc ∧ x.id = o.id)) → t.vc.state = s.vc.state)
        ∧ (∀ f : FilterNo, (t.filt f).removal =
            if told .hs ∧ (s.filt f).removal = .inHand o.id then .complete else (s.filt f).removal)
        ∧ (s.li.events.length ≤ 50 → ⟨s.clock, .opCancelled, .info, single o.steps, some o.id,
            some (o.steps.toNat : Int), some reason⟩ ∈ t.li.events)
    let join (o : OpRec) : OpRec :=
      { o with joined := if q.requester ∈ o.joined then o.joined else o.joined ++ [q.requester] }
    let placed (o : OpRec) (l : List OpRec) : Prop := ∃ pre post, l = pre ++ post ∧ (∀ x ∈ pre, x.cls = .protection)
      ∧ (∀ x, post.head? = some x → x.cls ≠ .protection) ∧ t.sc.waiting = pre ++ o :: post
    let queued (l : List OpRec) : Prop := answer = .queued s.sc.nextId
      ∧ placed ⟨s.sc.nextId, .open_, bit k, .protection, q.cause, q.requester, [], q.attempt, s.clock⟩ l
      ∧ t.sc = { s.sc with nextId := s.sc.nextId + 1, waiting := t.sc.waiting }
    let age (x : OpRec) : Nat := (s.clock - x.queued).toNat
    (answer ≠ .full ∧ answer ≠ .conflict)
      ∧ (∀ a, q.steps = bit k → s.sc.active = some a → a.op.kind = .close → mem a.op.steps k = true →
          (s.stp k).state = some .closing →
          (request q k s).1 = .takenOver s.sc.nextId
          ∧ ∃ b, (request q k s).2.sc.active = some b
            ∧ b.op = ⟨s.sc.nextId, .open_, bit k, .protection, q.cause, q.requester, [], 1, s.clock⟩
            ∧ b.start = s.clock ∧ b.startPos[k] = (s.stp k).sensed
            ∧ b.timeout = addMs s.clock (s.cfg k).operateTimeout
            ∧ (request q k s).2.sc.coils[k] = ⟨none, some (addMs s.clock (s.cfg k).openPulse)⟩
            ∧ (request q k s).2.sc.rest = s.sc.rest ∧ (request q k s).2.sc.waiting = s.sc.waiting
            ∧ ((request q k s).2.stp k).state = some .opening ∧ ((request q k s).2.stp k).commanded = .opened
            ∧ ((request q k s).2.stp k).closeList = (s.stp k).closeList
            ∧ mem (request q k s).2.energized k = true
            ∧ (∀ j, j ≠ k → (request q k s).2.stp j = s.stp j ∧ (request q k s).2.sc.coils[j] = s.sc.coils[j])
            ∧ (s.sc.retries[k] = none →
              let told := a.op.requester = .vc ∨ .vc ∈ a.op.joined
              let report (kind : EventKind) (cls : EvClass) (j : StepNo) (id : Byte) (value second : Option Int) : Prop :=
                s.li.events.length ≤ 50 → ⟨s.clock, kind, cls, some j, some id, value, second⟩ ∈ t.li.events
              report .opAborted .alarm k a.op.id none none
              ∧ report .opStart .info k s.sc.nextId (some ((bit k).toNat : Int)) (some ((16 + q.cause.code : Nat) : Int))
              ∧ (∀ x, s.vc.state = .awaiting x → told → x.id = a.op.id → t.vc = { s.vc with state := .watch })
              ∧ (∀ x, s.vc.state = .awaiting x → ¬(told ∧ x.id = a.op.id) → x.id ≠ s.sc.nextId → t.vc = s.vc)
              ∧ (∀ x d, s.vc.state = .settling x d → t.vc = { s.vc with state := .watch }
                ∧ report .learnDiscarded .info x.step x.id (some 1) none)
              ∧ t.hs = s.hs ∧ t.rl.window = .none ∧ t.rl.table = s.rl.table
              ∧ (∀ w, s.rl.window = .started w → w.id ≠ a.op.id → report .resDiscarded .info w.step w.id (some 0) none)
              ∧ ∀ w, ((∃ e d, s.rl.window = .settling w e d) ∨ ∃ e, s.rl.window = .afterWait w e) →
                report .resDiscarded .info w.step w.id (some 0) none))
      ∧ (q.steps = bit k → s.sc.retries[k] = none → (∀ a, s.sc.active = some a → mem a.op.steps k = false) →
          t = { s with sc := t.sc, vc := t.vc, hs := t.hs, li := t.li }
          ∧ ((∀ x ∈ w, mem x.steps k = false) → w.length < 4 →
              queued w ∧ t = { s with sc := t.sc })
          ∧ (∀ pre o post, w = pre ++ o :: post → (∀ x ∈ pre ++ post, mem x.steps k = false) → mem o.steps k = true →
              (o.kind = .open_ → answer = .merged o.id
                ∧ t = { s with sc := { s.sc with waiting := t.sc.waiting } }
                ∧ (o.cls = .protection → t.sc.waiting = pre ++ join o :: post)
                ∧ (o.cls ≠ .protection → placed { join o with cls := .protection, cause := q.cause } (pre ++ post)))
              ∧ (o.kind = .close → (pre ++ post).length < 4 → queued (pre ++ post) ∧ cancelled o 0 t))
          ∧ ∀ pre v post, (∀ x ∈ w, mem x.steps k = false) → 4 ≤ w.length → w = pre ++ v :: post → v ∉ pre → v ∉ post →
              (∀ x ∈ pre, x.cls = v.cls → age v ≤ age x) → (∀ x ∈ post, x.cls = v.cls → age v < age x) →
              ((v.cls = .control ∨ (v.cls = .directed ∧ ∀ x ∈ w, x.cls ≠ .control)) →
                queued (pre ++ post) ∧ cancelled v 2 t)
              ∧ ((∀ x ∈ w, x.cls = .protection) → answer = .merged v.id ∧ t = { s with sc := { s.sc with
                  waiting := pre ++ { join v with steps := v.steps ||| bit k } :: post } }))

/-! ### Voltage control -/

/-- RAISE_EXPIRY. With a close inhibitor present RAISE-INHIBITED is appended with the set, the raise timer restarts
and nothing is requested. With none present and no candidate, NO-CANDIDATE is appended and the timer restarts;
otherwise the candidate that ranks first is the one requested, and with the channel occupied by other steps it waits
as a CONTROL CLOSE that the Voltage Controller awaits (R88, R89, R90). A candidate is READY, not resting, without the
unbalance-alarm flag, leads to a combination neither VETOED nor PINNED, and keeps Vc within UL less PREDICT-MARGIN; a
CLEAR combination ranks before a SUSPECT one, then fewer recent closes, then fewer closes in all, then the lower step.
-/
def Obligations.RaiseExpiryReadsTheInhibitorsThenTheCandidates : Prop :=
  ∀ (s : State) (d : Clock), s.vc.state = .raiseTiming d → passed s.clock d = true →
    let candidate (k : StepNo) : Prop := (s.stp k).state = some .ready
      ∧ (s.stp k).closeList.length < (s.cfg k).closeLimit ∧ (s.stp k).alarmFlag = false
      ∧ (s.entry (s.energized ||| bit k)).state ≠ .vetoed ∧ (s.entry (s.energized ||| bit k)).state ≠ .pinned
      ∧ s.vc.vc + (s.cfg k).dvEstimate ≤ s.vc.ul - s.settings.control.predictMargin
    let suspect (k : StepNo) : Nat := if (s.entry (s.energized ||| bit k)).state = .suspect then 1 else 0
    let recent (k : StepNo) : Nat := (s.stp k).closeList.length
    let total (k : StepNo) : Nat := (s.stp k).closeCount
    let before (k j : StepNo) : Prop := suspect k < suspect j ∨ (suspect k = suspect j ∧ (recent k < recent j
      ∨ (recent k = recent j ∧ (total k < total j ∨ (total k = total j ∧ k < j)))))
    (s.inhibitors ≠ 0 → ∃ j n, j ≤ s.settings.control.jitterMax ∧ exec .raiseExpiry s = .next { s with
        vc := { s.vc with state := .raiseTiming (addSec s.clock (s.settings.control.raiseDelay + j)) }
        li := s.li.append s.settings.yard.attnClass
          ⟨s.clock, .raiseInhibited, .info, none, none, some (s.inhibitors.toNat : Int), some 0⟩
        draws := n })
      ∧ (s.inhibitors = 0 → (∀ k, ¬candidate k) → ∃ j n, j ≤ s.settings.control.jitterMax
        ∧ exec .raiseExpiry s = .next { s with
          vc := { s.vc with state := .raiseTiming (addSec s.clock (s.settings.control.raiseDelay + j)) }
          li := s.li.append s.settings.yard.attnClass
            ⟨s.clock, .noCandidate, .info, none, none, some 0, some s.vc.vc⟩
          draws := n })
      ∧ ∀ a k, s.inhibitors = 0 → s.sc.active = some a → a.missing ≠ 0 → s.sc.waiting = [] →
          candidate k → mem a.op.steps k = false → s.sc.retries[k] = none →
          (∀ j, candidate j → j ≠ k → before k j) →
          exec .raiseExpiry s = .next { s with
            vc := { s.vc with state := .awaiting ⟨s.sc.nextId, .raise, k, s.vc.vc⟩ }
            sc := { s.sc with
              nextId := s.sc.nextId + 1
              waiting := [⟨s.sc.nextId, .close, bit k, .control, .raise, .vc, [], 1, s.clock⟩] }
            li := s.li.append s.settings.yard.attnClass
              ⟨s.clock, .controlRequest, .info, some k, some s.sc.nextId, some 0, some s.vc.vc⟩ }

/-- LOWER_EXPIRY: without a candidate NO-CANDIDATE is appended and the timer restarts, urgent or with a jitter;
otherwise the first candidate along the Insertion List in REMOVAL-ORDER is requested as a CONTROL OPEN (R91, R92). A
candidate is CLOSED with its minimum closed time met, leads to a combination neither VETOED nor PINNED, and keeps Vc
at LL plus PREDICT-MARGIN or more, a test left out under URGENT-HIGH. The timer that starts holds the URGENT-DELAY of
this moment (R99; log entry 36). -/
def Obligations.LowerExpiryRequestsByRemovalOrder : Prop :=
  ∀ (s : State) (d : Clock), s.vc.state = .lowerTiming d → passed s.clock d = true →
    let candidate (k : StepNo) : Prop := (s.stp k).state = some .closed ∧ (s.stp k).closedSince ≠ none
      ∧ (s.stp k).minClosed = none
      ∧ (s.entry (without s.energized (bit k))).state ≠ .vetoed
      ∧ (s.entry (without s.energized (bit k))).state ≠ .pinned
      ∧ (s.vc.urgentHigh = true
        ∨ s.vc.ll + s.settings.control.predictMargin ≤ s.vc.vc - (s.cfg k).dvEstimate)
    ((∀ k ∈ s.sm.insertion, ¬candidate k) → ∃ t j, j ≤ s.settings.control.jitterMax
        ∧ exec .lowerExpiry s = .next t
        ∧ t = { s with vc := t.vc, li := t.li, draws := t.draws }
        ∧ t.vc = { s.vc with
            state := .lowerTiming (addSec s.clock
              (if s.vc.urgentHigh then s.settings.control.urgentDelay else s.settings.control.lowerDelay + j))
            urgentHeld := s.settings.control.urgentDelay }
        ∧ t.li = s.li.append s.settings.yard.attnClass
            ⟨s.clock, .noCandidate, .info, none, none, some 1, some s.vc.vc⟩)
      ∧ ∀ a k pre post, s.sc.active = some a → a.missing ≠ 0 → s.sc.waiting = [] → mem a.op.steps k = false →
          s.sc.retries[k] = none → candidate k →
          (match s.settings.control.removalOrder with
            | .fifo => s.sm.insertion
            | .lifo => s.sm.insertion.reverse) = pre ++ k :: post →
          (∀ j ∈ pre, ¬candidate j) →
          exec .lowerExpiry s = .next { s with
            vc := { s.vc with state := .awaiting ⟨s.sc.nextId, .lower, k, s.vc.vc⟩ }
            sc := { s.sc with
              nextId := s.sc.nextId + 1
              waiting := [⟨s.sc.nextId, .open_, bit k, .control, .lower, .vc, [], 1, s.clock⟩] }
            li := s.li.append s.settings.yard.attnClass
              ⟨s.clock, .controlRequest, .info, some k, some s.sc.nextId, some 1, some s.vc.vc⟩ }

/-- SETTLE_EXPIRY writes the step's new estimate, a quarter of the way to the measured change, toward zero and
clamped, appends LEARN-DONE and goes to WATCH (R95). -/
def Obligations.SettleExpiryLearnsTheEstimate : Prop :=
  ∀ (s : State) (x : Sample) (d : Clock), s.vc.state = .settling x d → passed s.clock d = true →
    ∃ t, exec .settleExpiry s = .next t ∧
      let old := (s.cfg x.step).dvEstimate
      let measured := match x.dir with
        | .raise => s.vc.vc - x.vBefore
        | .lower => x.vBefore - s.vc.vc
      let new := clampInt s.settings.control.dvMin s.settings.control.dvMax ((3 * old + measured).tdiv 4)
      t = { s with vc := { s.vc with state := .watch }, settings := t.settings, li := t.li }
        ∧ t.settings = { s.settings with steps := t.settings.steps }
        ∧ t.cfg x.step = { s.cfg x.step with dvEstimate := new } ∧ (∀ j, j ≠ x.step → t.cfg j = s.cfg j)
        ∧ t.li = s.li.append s.settings.yard.attnClass
            ⟨s.clock, .learnDone, .info, some x.step, some x.id, some old, some new⟩

/-- SUPERVISION_EXPIRY falls back to FALLBACK and cancels every waiting DIRECTED CLOSE and every DIRECTED retry; no
DIRECTED OPEN is lost to it (R49, R82, R98). HOST-SILENT and MODE-CHANGE join, and OP-CANCELLED with reason
HOST-SILENT for each record removed and each retry cancelled; a filter that holds a removed record is told CANCELLED
(R49, R79, R114). The channel is shown occupied, so that nothing starts. -/
def Obligations.SupervisionExpiryFallsBackAndCancelsDirectedCloses : Prop :=
  ∀ (s : State) (a : ActiveOp), due s.clock s.vc.supervision = true → s.vc.mode = .remote →
    s.vc.state = .suspended → s.sc.active = some a → a.missing ≠ 0 → ∃ t, exec .supervisionExpiry s = .next t
      ∧ t.vc.supervision = none
      ∧ (s.settings.control.fallback = .auto → t.vc.mode = .auto ∧ t.vc.state = .watch)
      ∧ (s.settings.control.fallback = .hold → t.vc.mode = .hold ∧ t.vc.state = .suspended)
      ∧ t.sc.waiting = s.sc.waiting.filter (fun o => !(o.kind = .close && o.cls = .directed))
      ∧ (∀ k : StepNo, t.sc.retries[k] = s.sc.retries[k].filter fun r => r.cls ≠ .directed)
      ∧ (let c := s.settings.control
        let removed (o : OpRec) : Prop := o ∈ s.sc.waiting ∧ o.kind = .close ∧ o.cls = .directed
        (∀ f : FilterNo, ((∃ o, removed o ∧ (o.requester = .hs ∨ .hs ∈ o.joined) ∧ (s.filt f).removal = .inHand o.id) →
            t.filt f = { s.filt f with removal := .complete })
          ∧ ((∀ o, removed o → ¬((o.requester = .hs ∨ .hs ∈ o.joined) ∧ (s.filt f).removal = .inHand o.id)) →
            t.filt f = s.filt f))
        ∧ (s.sc.waiting.length ≤ 4 → s.li.events.length ≤ 50 →
          ⟨s.clock, .hostSilent, .alarm, none, none, some (c.supervision : Int), some (c.fallback.code : Int)⟩ ∈ t.li.events
          ∧ ⟨s.clock, .modeChange, .info, none, none, some (t.vc.mode.code : Int), some (Mode.remote.code : Int)⟩ ∈ t.li.events
          ∧ (∀ o, removed o → ⟨s.clock, .opCancelled, .info, single o.steps, some o.id, some (o.steps.toNat : Int), some 3⟩
            ∈ t.li.events)
          ∧ ∀ k r, s.sc.retries[k] = some r → r.cls = .directed →
            ⟨s.clock, .opCancelled, .info, some k, some r.failedId, some ((bit k).toNat : Int), some 3⟩ ∈ t.li.events))
      ∧ t.sc.active = some a ∧ t.sm = s.sm ∧ t.settings = s.settings ∧ t.yp = s.yp ∧ t.vc.vc = s.vc.vc

/-- MODE is answered OK in every state: the named mode is current after it, the Voltage Controller is in WATCH on
entering AUTO and SUSPENDED outside it, MODE-CHANGE says the new and the old mode, and a sample in SETTLING and a
learning window in SETTLING or AFTER-WAIT are discarded with their records (R79, R81, R96, R98, R127). Naming the
current mode changes nothing but the supervision deadline, which every request frame sets anew (R81), and the reply
list. A byte that names no mode is refused RANGE (R168, R169). The reply stands last: log entry 34. -/
def Obligations.ModeRequestMovesTheVoltageController : Prop :=
  (∀ (tag b : Byte) (s : State), hasRoom s = true → 3 ≤ b.toNat → exec (.mode tag [b]) s = .next { refreshSupervision s with
      li := { s.li with replies := s.li.replies ++ [⟨0x87, tag, .range, .empty⟩] } })
    ∧ ∀ (tag b : Byte) (m : Mode) (s : State), hasRoom s = true → modeOfByte b.toNat = some m →
    ∃ t, exec (.mode tag [b]) s = .next t ∧ t.vc.mode = m
      ∧ t.li.replies.getLast? = some ⟨0x87, tag, .ok, .empty⟩
      ∧ (m ≠ s.vc.mode → t.vc.state = (if m = .auto then .watch else .suspended))
      ∧ (m ≠ s.vc.mode → s.li.events.length ≤ 50 →
          ⟨s.clock, .modeChange, .info, none, none, some (m.code : Int), some (s.vc.mode.code : Int)⟩ ∈ t.li.events
            ∧ (∀ x d, s.vc.state = .settling x d →
              ⟨s.clock, .learnDiscarded, .info, some x.step, some x.id, some 6, none⟩ ∈ t.li.events)
            ∧ ∀ w, ((∃ e d, s.rl.window = .settling w e d) ∨ ∃ e, s.rl.window = .afterWait w e) →
              ⟨s.clock, .resDiscarded, .info, some w.step, some w.id, some 5, none⟩ ∈ t.li.events)
      ∧ (m ≠ s.vc.mode → t.vc = { s.vc with mode := m, state := t.vc.state, supervision := t.vc.supervision }
        ∧ t.rl.table = s.rl.table ∧ t.rl.window = match s.rl.window with
          | .none => .none
          | .started w => .started w
          | .settling _ _ _ => .none
          | .afterWait _ _ => .none)
      ∧ (m = s.vc.mode → t = { refreshSupervision s with
          li := { s.li with replies := s.li.replies ++ [⟨0x87, tag, .ok, .empty⟩] } })
      ∧ t.vc.supervision = (if m = .remote ∧ s.settings.control.supervision ≠ 0 then
          some (addSec s.clock s.settings.control.supervision) else none)
      ∧ t = { s with vc := t.vc, rl := t.rl, li := t.li }

/-! ### Harmonics and resonance -/

/-- FILTER_PICKUP_EXPIRY makes the filter ACTIVE, sets HARMONIC-SEEN and, for every action but ALARM, puts the
harmonic close block in force; an ALARM or BLOCK-CLOSE filter requests nothing. With the channel occupied and no
record waiting, a REMOVE-LAST filter requests the PROTECTION OPEN of the first CLOSED step from the tail of the
Insertion List and holds it IN-HAND, or is STOPPED where there is none (R113), and a TRIP-ALL filter requests the
group OPEN of the energized steps that are not LOCKED, which takes an ACTIVE CLOSE over (R46, R47, R116).
FILTER_DROPOUT_EXPIRY takes a SELF-RESET filter to QUIET and a LATCHED one to HELD, and ACKNOWLEDGE FILTER releases
only a HELD one, and refuses a number that is no filter's with RANGE (R107 to R112, R168, R169). The reply stands
last: log entry 34. -/
def Obligations.FiltersActivateDropOutAndAreAcknowledged : Prop :=
  (∀ (f : FilterNo) (s : State) (d : Clock), s.isEnabled f = true → (s.filt f).state = .pickingUp d →
    passed s.clock d = true → ∃ t, exec (.filterPickupExpiry f) s = .next t
      ∧ (t.filt f).state = .active ∧ (t.filt f).rep = false ∧ (t.filt f).level = (s.filt f).level
      ∧ t.li.sticky.harmonicSeen = true
      ∧ ((s.fcfg f).action ≠ .alarm → t.hs.block = true)
      ∧ (((s.fcfg f).action = .alarm ∨ (s.fcfg f).action = .blockClose) → channelMove s = none →
          t = { s with hs := t.hs, li := t.li } ∧ (t.filt f).removal = .none)
      ∧ (∀ a, s.sc.active = some a → a.missing ≠ 0 → s.sc.waiting = [] → (∀ j : StepNo, s.sc.retries[j] = none) →
          s.li.events.length ≤ 50 →
          let opened (steps : Comb) (id : Byte) (cause : Cause) : OpRec :=
            ⟨id, .open_, steps, .protection, cause, .hs, [], 1, s.clock⟩
          let told (c : EvClass) (k : Option StepNo) (id : Option Byte) : EventRec :=
            ⟨s.clock, .filterActive, c, k, id, some ((f.val + 1 : Nat) : Int), (s.filt f).level.map Int.ofNat⟩
          ((s.fcfg f).action = .removeLast →
              ((∀ k ∈ s.sm.insertion, (s.stp k).state ≠ some .closed) → (t.filt f).removal = .stopped
                ∧ told .alarm none none ∈ t.li.events ∧ t = { s with hs := t.hs, li := t.li })
              ∧ ∀ k pre post, s.sm.insertion.reverse = pre ++ k :: post → (s.stp k).state = some .closed →
                (∀ j ∈ pre, (s.stp j).state ≠ some .closed) → mem a.op.steps k = false →
                t.sc = { s.sc with
                    nextId := s.sc.nextId + 1
                    waiting := [opened (bit k) s.sc.nextId .harmRemove] }
                  ∧ (t.filt f).removal = .inHand s.sc.nextId
                  ∧ told .alarm (some k) (some s.sc.nextId) ∈ t.li.events
                  ∧ t = { s with hs := t.hs, sc := t.sc, li := t.li })
            ∧ ((s.fcfg f).action = .tripAll → (t.filt f).removal = .none ∧ told .trip none none ∈ t.li.events
              ∧ ∀ g : Comb, (∀ k, mem g k = true ↔
                  mem s.energized k = true ∧ (s.stp k).state ≠ some .locked ∧ mem a.op.steps k = false) →
                (a.op.kind = .open_ → t = { s with hs := t.hs, sc := t.sc, li := t.li }
                  ∧ (g = 0 → t.sc = s.sc) ∧ (g ≠ 0 → t.sc = { s.sc with
                      nextId := s.sc.nextId + 1
                      waiting := [opened g s.sc.nextId .harmTrip] }))
                ∧ ∀ k, a.op.kind = .close → a.op.steps = bit k → (s.stp k).sensed ≠ some .opened →
                  (t.stp k).commanded = .opened
                    ∧ (∃ b, t.sc.active = some b ∧ b.op = opened (bit k) s.sc.nextId .harmTrip)
                    ∧ t.sc.waiting = if g = 0 then [] else [opened g (s.sc.nextId + 1) .harmTrip]))
      ∧ (∀ g, g ≠ f → (t.filt g).state = (s.filt g).state)
      ∧ t.settings = s.settings ∧ t.yp = s.yp ∧ t.mu = s.mu)
    ∧ (∀ (f : FilterNo) (s : State) (d : Clock), s.isEnabled f = true → (s.filt f).state = .dropping d →
    passed s.clock d = true → ∃ t, exec (.filterDropoutExpiry f) s = .next t
      ∧ t = { s with hs := t.hs, li := t.li } ∧ (∀ g, g ≠ f → t.filt g = s.filt g)
      ∧ (t.filt f).state = (if (s.fcfg f).response = .selfReset then .quiet else .held)
      ∧ (t.filt f).removal = .none ∧ (t.filt f).rep = false ∧ (t.filt f).level = (s.filt f).level)
    ∧ (∀ (tag b : Byte) (s : State), hasRoom s = true → (b = 0 ∨ 8 < b.toNat) → exec (.acknowledgeFilter tag [b]) s =
      .next { refreshSupervision s with li := { s.li with replies := s.li.replies ++ [⟨0x91, tag, .range, .empty⟩] } })
    ∧ ∀ (f : FilterNo) (s : State) (tag : Byte), hasRoom s = true → ∃ t,
      exec (.acknowledgeFilter tag [BitVec.ofNat 8 (f.val + 1)]) s = .next t
        ∧ (s.isEnabled f = true → (s.filt f).state = .held →
            (t.filt f).state = .quiet ∧ t.li.replies.getLast? = some ⟨0x91, tag, .ok, .empty⟩)
        ∧ (s.isEnabled f = true → ((s.filt f).state = .active ∨ ∃ d, (s.filt f).state = .dropping d) →
            t.hs = s.hs ∧ t.li.replies.getLast? = some ⟨0x91, tag, .condition, .empty⟩)
        ∧ ((s.isEnabled f = false ∨ (s.filt f).state = .quiet ∨ ∃ d, (s.filt f).state = .pickingUp d) →
            t.hs = s.hs ∧ t.li.replies.getLast? = some ⟨0x91, tag, .ok, .empty⟩)
        ∧ (∀ g, g ≠ f → t.filt g = s.filt g) ∧ t = { s with hs := t.hs, vc := t.vc, li := t.li }

/-- ENTRY_EXPIRY clears an entry, and VETO_WRITE writes one as R132 gives; combination 0 is refused and every
other entry is as before (R121, R130, R132). The reply stands last: log entry 34. -/
def Obligations.ResonanceEntriesExpireAndAreWritten : Prop :=
  (∀ (c : Comb) (s : State), due s.clock (s.entry c).expiry = true → ∃ t, exec (.entryExpiry c) s = .next t
      ∧ t = { s with rl := t.rl, li := t.li } ∧ t.rl.window = s.rl.window
      ∧ t.entry c = ⟨.clear, none, none⟩ ∧ (∀ e, e ≠ c → t.entry e = s.entry e)
      ∧ t.li = s.li.append s.settings.yard.attnClass
          ⟨s.clock, .resExpire, .info, none, none, some (c.toNat : Int), some ((s.entry c).state.code : Int)⟩)
    ∧ (∀ (tag : Byte) (c : Comb) (s : State), hasRoom s = true → c ≠ 0 →
        (∃ t, exec (.vetoWrite tag [c.setWidth 8, 0]) s = .next t ∧ t.entry c = ⟨.clear, none, none⟩
          ∧ (∀ e, e ≠ c → t.entry e = s.entry e) ∧ t.rl.window = s.rl.window
          ∧ t = { s with rl := t.rl, vc := t.vc, li := t.li } ∧ t.li.replies.getLast? = some ⟨0x8E, tag, .ok, .empty⟩)
        ∧ (∃ t, exec (.vetoWrite tag [c.setWidth 8, 2]) s = .next t
          ∧ t.entry c = ⟨.vetoed, none, some (addMin s.clock s.settings.yard.vetoHold)⟩
          ∧ (∀ e, e ≠ c → t.entry e = s.entry e) ∧ t.rl.window = s.rl.window
          ∧ t = { s with rl := t.rl, vc := t.vc, li := t.li } ∧ t.li.replies.getLast? = some ⟨0x8E, tag, .ok, .empty⟩)
        ∧ ∃ t, exec (.vetoWrite tag [c.setWidth 8, 3]) s = .next t ∧ t.entry c = ⟨.pinned, none, none⟩
          ∧ (∀ e, e ≠ c → t.entry e = s.entry e) ∧ t.rl.window = s.rl.window
          ∧ t = { s with rl := t.rl, vc := t.vc, li := t.li } ∧ t.li.replies.getLast? = some ⟨0x8E, tag, .ok, .empty⟩)
    ∧ ∀ (tag b st : Byte) (s : State), hasRoom s = true →
        (b.toNat = 0 ∨ 64 ≤ b.toNat ∨ st.toNat = 1 ∨ 4 ≤ st.toNat) → ∃ t, exec (.vetoWrite tag [b, st]) s = .next t
          ∧ t = { refreshSupervision s with
            li := { s.li with replies := s.li.replies ++ [⟨0x8E, tag, .range, .empty⟩] } }

/-- A judgement is quiet when no order reaches RES-FLOOR; otherwise its worst order is the lowest of those with the
greatest ratio of the level after to the level before, at least 10 (R128). The Spectrum Frame that finds the window in
AFTER-WAIT is judged: the window ends, and the entry of its combination is marked by the table of R129, with the worst
fields and the expiry it gives; no other entry changes. A combination vetoed by a CLOSE while it is live is left again
by a PROTECTION OPEN when EVICT is ON (R126, R129, R131). The judgement is shown with no filter enabled and the
channel occupied by another step's operation. -/
def Obligations.JudgementFindsTheWorstOrder : Prop :=
  (∀ (floor : Nat) (before after : Vector Nat 24),
    (judge floor before after = none ↔ ∀ i : Fin 24, after[i] < floor)
      ∧ ∀ w, judge floor before after = some w → ∃ i : Fin 24, w.order = i.val + 2 ∧ floor ≤ after[i]
          ∧ w.after = after[i] ∧ w.ratio = min (after[i] * 100 / max before[i] 10) 9999
          ∧ ∀ j : Fin 24, floor ≤ after[j] →
              min (after[j] * 100 / max before[j] 10) 9999 ≤ w.ratio
              ∧ (min (after[j] * 100 / max before[j] 10) 9999 = w.ratio → i ≤ j))
    ∧ ∀ (m : SpectrumInput) (first : Bool) (s : State) (v : PhaseFlags) (w : WindowStart) (c : Comb) (a : ActiveOp),
      windowReady m s = some v → s.rl.window = .afterWait w c → s.settings.enabled = 0 → s.sc.active = some a →
      a.missing ≠ 0 → mem a.op.steps w.step = false → s.sc.waiting = [] → s.sc.retries[w.step] = none →
      s.li.events.length ≤ 50 → ∃ t g, exec (.spectrumFrame m first) s = .next t ∧ t.mu.spectrum = some g ∧
        let y := s.settings.yard
        let e := s.entry c
        let worst := judge y.resFloor w.before g.vh
        let veto (x : Worst) : Prop :=
          c ≠ 0 ∧ e.state ≠ .pinned ∧ (y.vetoLevel ≤ x.after ∨ (y.resRatio ≤ x.ratio ∧ e.state ≠ .clear))
        let suspect (x : Worst) : Prop :=
          c ≠ 0 ∧ e.state = .clear ∧ x.after < y.vetoLevel ∧ y.resRatio ≤ x.ratio
        let report (kind : EventKind) (cls : EvClass) : Prop := ⟨s.clock, kind, cls, some w.step, some w.id,
          some (c.toNat : Int), worst.map fun x => (x.ratio : Int)⟩ ∈ t.li.events
        let live := y.evict = true ∧ w.kind = .close ∧ s.energized = c
        t.rl.window = .none ∧ (∀ d, d ≠ c → t.entry d = s.entry d)
          ∧ ((c = 0 ∨ worst = none) → t.entry c = e ∧ report .resJudged .info ∧ t.sc = s.sc)
          ∧ (∀ x, worst = some x →
            (c ≠ 0 → e.state = .pinned → t.entry c = { e with worst := some x } ∧ report .resJudged .info ∧ t.sc = s.sc)
            ∧ (veto x → t.entry c = ⟨.vetoed, some x, some (addMin s.clock y.vetoHold)⟩ ∧ report .resVeto .alarm
              ∧ t.li.sticky.harmonicSeen = true
              ∧ (¬live → t.sc = s.sc)
              ∧ (live → t.sc = { s.sc with
                  nextId := s.sc.nextId + 1
                  waiting := [⟨s.sc.nextId, .open_, bit w.step, .protection, .resEvict, .rl, [], 1, s.clock⟩] }
                ∧ ⟨s.clock, .resEvict, .alarm, some w.step, some s.sc.nextId, some (c.toNat : Int), some 0⟩
                  ∈ t.li.events))
            ∧ (suspect x → t.entry c = ⟨.suspect, some x, some (addMin s.clock y.suspectHold)⟩
              ∧ report .resSuspect .info ∧ t.sc = s.sc)
            ∧ (c ≠ 0 → e.state ≠ .pinned → ¬veto x → ¬suspect x →
              t.entry c = e ∧ report .resJudged .info ∧ t.sc = s.sc))
          ∧ t.settings = s.settings ∧ t.yp = s.yp ∧ t.sm = s.sm ∧ t.vc = s.vc ∧ t.store = s.store

/-! ### Unbalance -/

/-- UNB_ALARM_PICKUP_EXPIRY operates the alarm stage, appends UNB-ALARM and sets the unbalance-alarm flag;
UNB_TRIP_PICKUP_EXPIRY with REPORT appends UNB-TRIP and moves nothing, and with LATCH locks the step with UNBALANCE,
requests its PROTECTION OPEN and appends UNB-TRIP with the id of that request; all set UNB-SEEN (R141, R143, R144). The
OPEN is shown waiting behind another step's operation, and ACTIVE with its output asserted on an idle channel. -/
def Obligations.UnbalanceStagesOperate : Prop :=
  ∀ (k : StepNo) (s : State) (d : Clock), (s.stp k).supervised = true → passed s.clock d = true →
    let u : Option Int := (s.stp k).latest.map fun l => (l.u : Int)
    ((s.stp k).alarmStage = .pickingUp d → ∃ t, exec (.unbAlarmPickupExpiry k) s = .next t
        ∧ t = { s with sm := t.sm, li := t.li } ∧ (∀ j, j ≠ k → t.stp j = s.stp j)
        ∧ t.stp k = { s.stp k with alarmStage := .operated, alarmFlag := true } ∧ t.li.sticky.unbSeen = true
        ∧ t.li.events = (s.li.append s.settings.yard.attnClass
            ⟨s.clock, .unbAlarm, .alarm, some k, none, u, some ((s.cfg k).unbAlarm : Int)⟩).events)
      ∧ ((s.stp k).tripStage = .pickingUp d → (s.cfg k).tripMode = .report →
        ∃ t, exec (.unbTripPickupExpiry k) s = .next t
          ∧ t = { s with sm := t.sm, li := t.li } ∧ (∀ j, j ≠ k → t.stp j = s.stp j)
          ∧ t.stp k = { s.stp k with tripStage := .operated } ∧ t.li.sticky.unbSeen = true
          ∧ t.li.events = (s.li.append s.settings.yard.attnClass
              ⟨s.clock, .unbTrip, .trip, some k, none, u, some ((s.cfg k).unbTrip : Int)⟩).events)
      ∧ ((s.stp k).tripStage = .pickingUp d → (s.cfg k).tripMode = .latch →
        hasLock (s.stp k).locks .unbalance = false → ∃ t, exec (.unbTripPickupExpiry k) s = .next t
          ∧ (t.stp k).state = some .locked ∧ hasLock (t.stp k).locks .unbalance = true
          ∧ (t.stp k).tripStage = .operated ∧ (t.stp k).sensed = (s.stp k).sensed
          ∧ (t.stp k).alarmFlag = (s.stp k).alarmFlag ∧ t.li.sticky.unbSeen = true
          ∧ t.settings = s.settings ∧ t.yp = s.yp ∧ t.mu = s.mu
          ∧ (s.sc.waiting = [] → s.sc.retries[k] = none → s.li.events.length ≤ 50 →
            let o : OpRec := ⟨s.sc.nextId, .open_, bit k, .protection, .unbalance, .up, [], 1, s.clock⟩
            let reported := ⟨s.clock, .unbTrip, .trip, some k, some o.id, u, some ((s.cfg k).unbTrip : Int)⟩
              ∈ t.li.events ∧ t.sc.nextId = s.sc.nextId + 1
            (∀ a, s.sc.active = some a → a.missing ≠ 0 → mem a.op.steps k = false →
                t.sc.active = some a ∧ t.sc.waiting = [o] ∧ reported)
              ∧ (s.sc.active = none → s.sm.built = true → t.sc.waiting = [] ∧ reported
                ∧ t.sc.coils[k].open_ = some (addMs s.clock (s.cfg k).openPulse)
                ∧ ∃ b, t.sc.active = some b ∧ b.op = o ∧ b.start = s.clock
                  ∧ b.timeout = addMs s.clock (s.cfg k).operateTimeout)))

/-- ZERO is tested in the order of R146, after BUSY before the build and RANGE for a number that is no step's (log
entry 20; R168, R169); a request that passes is taken with its length clamped to 16 to 1 024. The reply stands last:
log entry 34. -/
def Obligations.ZeroIsTakenOrRefusedInOrder : Prop :=
  (∀ (tag b hi lo : Byte) (s : State), hasRoom s = true →
    let refused (r : Result) : Prop := exec (.zero tag [b, hi, lo]) s = .next { refreshSupervision s with
      li := { s.li with replies := s.li.replies ++ [⟨0x8F, tag, r, .empty⟩] } }
    (s.sm.built = false → refused .busy) ∧ (s.sm.built = true → (b = 0 ∨ 6 < b.toNat) → refused .range))
  ∧ ∀ (tag hi lo : Byte) (k : StepNo) (s : State), hasRoom s = true →
    ∃ t, exec (.zero tag [BitVec.ofNat 8 (k.val + 1), hi, lo]) s = .next t
      ∧ (s.sm.built = false → t.zeroing = s.zeroing
          ∧ t.li.replies = s.li.replies ++ [⟨0x8F, tag, .busy, .empty⟩])
      ∧ (s.sm.built = true → s.zeroing ≠ none → t.zeroing = s.zeroing
          ∧ t.li.replies = s.li.replies ++ [⟨0x8F, tag, .busy, .empty⟩])
      ∧ (s.sm.built = true → s.zeroing = none →
          ¬((s.stp k).state = some .closed ∧ (s.stp k).sensed = some .closed) → t.zeroing = none
          ∧ t.li.replies = s.li.replies ++ [⟨0x8F, tag, .state, .empty⟩])
      ∧ (s.sm.built = true → s.zeroing = none → (s.stp k).state = some .closed → (s.stp k).sensed = some .closed →
          ((s.stp k).inrush ≠ none ∨ s.mu.cycle = none ∨ ∃ f, s.mu.cycle = some f
            ∧ (f.values = [] ∨ f.values.sum / f.values.length < 9000 ∨ 11000 < f.values.sum / f.values.length
              ∨ f.vtLoss = true)) → t.zeroing = none
          ∧ t.li.replies = s.li.replies ++ [⟨0x8F, tag, .condition, .empty⟩])
      ∧ (s.sm.built = true → s.zeroing = none → (s.stp k).state = some .closed → (s.stp k).sensed = some .closed →
          (s.stp k).inrush = none → ∀ f, s.mu.cycle = some f → f.values ≠ [] →
          9000 ≤ f.values.sum / f.values.length → f.values.sum / f.values.length ≤ 11000 → f.vtLoss = false →
          t.zeroing = some ⟨k, min (max (hi.toNat * 256 + lo.toNat) 16) 1024, 0, 0, 0, 0, s.clock⟩
          ∧ t.li.replies.getLast? = some ⟨0x8F, tag, .accepted, .empty⟩)
      ∧ t.settings = s.settings ∧ t.sm = s.sm ∧ t.sc = s.sc ∧ t.yp = s.yp

/-- ZERO_CANCEL is answered OK: with a zeroing in flight it aborts it with reason CANCELLED, with none in flight it
changes nothing, and a SAVE in flight does not stop it (R150). The order of two replies of one event is left open. -/
def Obligations.ZeroCancelAbortsTheZeroing : Prop :=
  ∀ (tag : Byte) (s : State), hasRoom s = true →
    (∀ z, s.zeroing = some z → ∃ t, exec (.zeroCancel tag []) s = .next t ∧ t.zeroing = none
      ∧ t = { s with zeroing := none, vc := (refreshSupervision s).vc, li := t.li }
      ∧ let l := s.li.append s.settings.yard.attnClass
          ⟨s.clock, .zeroAborted, .info, some z.step, none, some 4, some z.taken⟩
        t.li = { l with replies := t.li.replies } ∧ t.li.replies.Perm (l.replies ++ [⟨0x90, tag, .ok, .empty⟩]))
    ∧ (s.zeroing = none → exec (.zeroCancel tag []) s = .next { refreshSupervision s with
        li := { s.li with replies := s.li.replies ++ [⟨0x90, tag, .ok, .empty⟩] } })

/-! ### Yard protection -/

/-- OV1_PICKUP_EXPIRY and OV1_REPEAT_EXPIRY leave OV1 OPERATED with a repeat deadline and set OV-SEEN. With no step
to take nothing is requested; with the channel occupied by other steps, the first CLOSED step along the Insertion List
in REMOVAL-ORDER waits as a PROTECTION OPEN (R155). OV1-OPERATE says the step, the id, Vhigh of the last frame and
OV1-LEVEL; that it is the level as it stands at the expiry is the model's choice (log entry 40). -/
def Obligations.Ov1ExpiryRepeatsAndTakesAStep : Prop :=
  ∀ (s : State) (d : Clock) (i : Instr), passed s.clock d = true →
    ((i = .ov1PickupExpiry ∧ s.yp.ov1 = .pickingUp d) ∨ (i = .ov1RepeatExpiry ∧ s.yp.ov1 = .operated d)) →
    ∃ t, exec i s = .next t
      ∧ t.yp = { s.yp with ov1 := .operated (addSec s.clock s.settings.yard.ov1Delay) }
      ∧ t.li.sticky.ovSeen = true ∧ t.settings = s.settings ∧ t.mu = s.mu ∧
      let operated (k : Option StepNo) (id : Option Byte) : Prop := s.li.events.length ≤ 50 → ⟨s.clock, .ov1Operate,
        .alarm, k, id, s.mu.cycle.bind fun f => f.values.max?.map Int.ofNat, some (s.settings.yard.ov1Level : Int)⟩
          ∈ t.li.events
      ((∀ k ∈ s.sm.insertion, (s.stp k).state = some .closed →
          ∃ o ∈ s.sc.waiting, o.kind = .open_ ∧ mem o.steps k = true) →
        operated none none ∧ t = { s with yp := t.yp, li := t.li })
      ∧ ∀ a k pre post, s.sc.active = some a → a.missing ≠ 0 → s.sc.waiting = [] → mem a.op.steps k = false →
          s.sc.retries[k] = none → (s.stp k).state = some .closed →
          (match s.settings.control.removalOrder with
            | .fifo => s.sm.insertion
            | .lifo => s.sm.insertion.reverse) = pre ++ k :: post →
          (∀ j ∈ pre, (s.stp j).state ≠ some .closed) →
          t.sc = { s.sc with
              nextId := s.sc.nextId + 1
              waiting := [⟨s.sc.nextId, .open_, bit k, .protection, .ov1, .yp, [], 1, s.clock⟩] }
            ∧ operated (some k) (some s.sc.nextId) ∧ t = { s with yp := t.yp, sc := t.sc, li := t.li }

/-- OV2_PICKUP_EXPIRY and DEAD_LINE_PICKUP_EXPIRY make a yard trip of their cause: latched under YARD-TRIP-MODE LATCH,
or when latched already, or when the retry limit is exceeded, and TRIPPED-AUTO otherwise; a trip in AUTO outside the
latched state is counted in the list. YARD-TRIP joins with the cause and Vhigh of the last frame, and YARD-LATCH with
the count when the limit is exceeded (R158). A trip out of NORMAL discards a sample in SETTLING and a learning window
in SETTLING or AFTER-WAIT with reason YARD-TRIP, shown with nothing waiting (R96, R127). With the channel idle, the
OPEN of every energized step that is not LOCKED is ACTIVE (R52, R156 to R159). -/
def Obligations.YardTripIsCountedLatchesAndOpens : Prop :=
  ∀ (s : State) (d : Clock), passed s.clock d = true →
    let y := s.settings.yard
    let counted := y.yardTripMode = .auto ∧ ∀ c, s.yp.trip ≠ .latched c
    let after (c : TripCause) (t : State) : Prop :=
      (¬counted → t.yp.trip = .latched c ∧ t.yp.times = s.yp.times ∧ t.yp.leave = s.yp.leave)
        ∧ (counted → t.yp.trip =
              (if y.retryLimit ≠ 0 ∧ y.retryLimit < s.yp.times.length + 1 then .latched c else .trippedAuto c)
            ∧ t.yp.times = (if 10 ≤ s.yp.times.length then s.yp.times.tail else s.yp.times) ++ [s.clock])
        ∧ (s.li.events.length ≤ 50 → ⟨s.clock, .yardTrip, .trip, none, none, some (c.cause.code : Int),
            s.mu.cycle.bind fun f => f.values.max?.map Int.ofNat⟩ ∈ t.li.events
          ∧ (counted → y.retryLimit ≠ 0 → y.retryLimit < s.yp.times.length + 1 → ⟨s.clock, .yardLatch, .trip, none, none,
            some (s.yp.times.length + 1 : Int), some (y.retryLimit : Int)⟩ ∈ t.li.events))
        ∧ (s.yp.trip = .normal → s.sc.waiting = [] →
          (∀ x e, s.vc.state = .settling x e → t.vc.state = .watch ∧ (s.li.events.length ≤ 24 →
            ⟨s.clock, .learnDiscarded, .info, some x.step, some x.id, some 3, none⟩ ∈ t.li.events))
          ∧ ∀ w, ((∃ e f, s.rl.window = .settling w e f) ∨ ∃ e, s.rl.window = .afterWait w e) → t.rl.window = .none
            ∧ (s.li.events.length ≤ 24 →
              ⟨s.clock, .resDiscarded, .info, some w.step, some w.id, some 2, none⟩ ∈ t.li.events))
        ∧ t.li.sticky.ovSeen = true ∧ t.settings = s.settings ∧ t.mu = s.mu ∧ t.yp.ov1 = s.yp.ov1
        ∧ (s.sm.built = true → s.sc.active = none → s.sc.waiting = [] →
            (∃ k, mem s.energized k = true ∧ (s.stp k).state ≠ some .locked ∧ (s.stp k).sensed ≠ some .opened) →
            t.sc.waiting = [] ∧ ∃ a, t.sc.active = some a ∧ a.op.kind = .open_ ∧ a.op.cls = .protection
              ∧ ∀ k, mem a.op.steps k = true ↔ mem s.energized k = true ∧ (s.stp k).state ≠ some .locked)
    (s.yp.ov2 = .pickingUp d → ∃ t, exec .ov2PickupExpiry s = .next t ∧ t.yp.ov2 = .operated
        ∧ t.yp.dead = s.yp.dead ∧ after .ov2 t)
      ∧ (s.yp.dead = .pickingUp d → ∃ t, exec .deadLinePickupExpiry s = .next t ∧ t.yp.dead = .operated
        ∧ t.yp.ov2 = s.yp.ov2 ∧ after .deadLine t)

/-- RESTORE_EXPIRY and a taken ACKNOWLEDGE YARD bring the yard back to NORMAL; the acknowledgement needs the restore
condition on the latest frame, clears the trip-time list, and is refused outside TRIPPED-LATCHED (R160, R161). That the
record carries the cause by its number in Table 3-1 is an inference: log entry 21. -/
def Obligations.YardRestoresByDelayOrAcknowledgement : Prop :=
  (∀ (s : State) (c : TripCause) (d : Clock), s.yp.trip = .restoring c d → passed s.clock d = true →
    exec .restoreExpiry s = .next { s with
      yp := { s.yp with trip := .normal }
      li := s.li.append s.settings.yard.attnClass
        ⟨s.clock, .yardRestore, .info, none, none, some (c.cause.code : Int), some 0⟩ })
    ∧ ∀ (s : State) (tag b : Byte), hasRoom s = true → ∃ t, exec (.acknowledgeYard tag [b]) s = .next t
        ∧ (s.yp.trip = .normal → t.yp = s.yp ∧ t.li.replies = s.li.replies ++ [⟨0x91, tag, .ok, .empty⟩])
        ∧ (((∃ c, s.yp.trip = .trippedAuto c) ∨ ∃ c d, s.yp.trip = .restoring c d) →
            t.yp = s.yp ∧ t.li.replies = s.li.replies ++ [⟨0x91, tag, .state, .empty⟩])
        ∧ (∀ c f, s.yp.trip = .latched c → s.mu.cycle = some f → restoreCondition s.settings.yard c f = true →
            t.yp = { s.yp with trip := .normal, times := [], leave := none }
            ∧ let l := s.li.append s.settings.yard.attnClass
                ⟨s.clock, .yardRestore, .info, none, none, some (c.cause.code : Int), some 1⟩
              t.li = { l with replies := t.li.replies } ∧ t.li.replies.Perm (l.replies ++ [⟨0x91, tag, .ok, .empty⟩]))
        ∧ (∀ c, s.yp.trip = .latched c →
            (s.mu.cycle = none ∨ ∃ f, s.mu.cycle = some f ∧ restoreCondition s.settings.yard c f = false) →
            t.yp = s.yp ∧ t.li.replies = s.li.replies ++ [⟨0x91, tag, .condition, .empty⟩])
        ∧ t = { s with yp := t.yp, vc := t.vc, li := t.li }

/-! ### The link -/

/-- WAIT_TIMEOUT answers the held WAIT (R177), INTER_BYTE_TIMEOUT and DISCARDED_FRAME return the receiver to HUNT, and
REPLY_SENT takes the reply formed first out of the list, whose frame is what TXD has sent by then: sync byte, length,
kind, tag, result code, contents and check (R165 to R168). That DISCARDED_FRAME takes the receiver out of any place of
CHECK is the model's choice: log entry 17. -/
def Obligations.LinkHousekeepingEvents : Prop :=
  (∀ (s : State) (w : HeldWait), s.li.held = some w → passed s.clock w.deadline = true →
    exec .waitTimeout s = .next { s with li := { s.li with
      held := none
      replies := s.li.replies ++ [⟨0x93, w.tag, .timeout, .waitTimeout s.li.events.length⟩] } })
    ∧ (∀ s : State, due s.clock s.li.rxLimit = true →
        exec .interByteTimeout s = .next { s with li := { s.li with rx := .hunt, rxLimit := none } })
    ∧ (∀ (s : State) (n kind tag : Byte) (p : List Byte) (hi : Option Byte), s.li.rx = .check n kind tag p hi →
        exec .discardedFrame s = .next { s with li := { s.li with rx := .hunt, rxLimit := none } })
    ∧ (∀ s : State, exec .replySent s = .next { s with li := { s.li with replies := s.li.replies.tail } })
    ∧ ∀ (s : State) (r : Reply) (rest : List Reply), s.li.replies = r :: rest → ∃ t, exec .replySent s = .next t
      ∧ txBytes s = frameBytes r.kind r.tag (BitVec.ofNat 8 r.result.code :: r.body.bytes) ++ txBytes t

/-- A frame of an unknown kind is answered UNKNOWN, with reply kind 0xFF from 0x80 on; a frame of a kind of Table 10-4
with another length than its own is answered MALFORMED; with no room in the reply list a frame of any kind changes
nothing (R165 to R167). The rows of ACKNOWLEDGE carry the payload after the target byte: log entry 17. -/
def Obligations.FramesAreAdmittedByRoomKindAndLength : Prop :=
  (∀ (kind tag : Byte) (p : List Byte) (s : State), hasRoom s = true → knownKind kind = false →
    exec (.unknownRequest kind tag p) s = .next { refreshSupervision s with li := { s.li with
      replies := s.li.replies
        ++ [⟨if kind.toNat < 0x80 then kind + 0x80 else 0xFF, tag, .unknown, .empty⟩] } })
    ∧ (∀ (kind tag : Byte) (p : List Byte) (s : State), hasRoom s = false →
        exec (.unknownRequest kind tag p) s = .next s)
    ∧ ∀ (tag : Byte) (p : List Byte) (s : State),
        let kinds : List (Instr × Byte × Nat) :=
          [(.status tag p, 0x81, 1), (.measure tag p, 0x82, 0), (.stepRead tag p, 0x83, 1), (.stepConfig tag p, 0x84, 41),
            (.service tag p, 0x85, 2), (.operate tag p, 0x86, 2), (.mode tag p, 0x87, 1), (.controlConfig tag p, 0x88, 31),
            (.yardConfig tag p, 0x89, 38), (.filterRead tag p, 0x8A, 1), (.filterConfig tag p, 0x8B, 17),
            (.filterEnable tag p, 0x8C, 2), (.vetoRead tag p, 0x8D, 2), (.vetoWrite tag p, 0x8E, 2), (.zero tag p, 0x8F, 3),
            (.zeroCancel tag p, 0x90, 0), (.acknowledgeStep tag p, 0x91, 1), (.acknowledgeFilter tag p, 0x91, 1),
            (.acknowledgeYard tag p, 0x91, 1), (.events tag p, 0x92, 1), (.wait tag p, 0x93, 3), (.save tag p, 0x94, 0),
            (.restart tag p, 0x95, 0)]
        ∀ x ∈ kinds, (hasRoom s = false → exec x.1 s = .next s)
          ∧ (hasRoom s = true → p.length ≠ x.2.2 → exec x.1 s = .next { refreshSupervision s with li := { s.li with
              replies := s.li.replies ++ [⟨x.2.1, tag, .malformed, .empty⟩] } })

/-- MEASURE, STEP_READ, FILTER_READ, VETO_READ and STATUS report the state as it stands and change nothing but the
reply list, the supervision deadline and, for STATUS with take, the sticky flags; the fields of STATUS are those of
R170, the inhibitors in the order of R38, and VETO_READ carries the learning window's phase, id and combination (R42,
R102, R118, R121, R170, R171, R178). An operand out of range is refused RANGE (R168, R169, R171). That STEP_READ
carries the zeroing in flight for its own step alone is the model's choice: log entry 38. -/
def Obligations.ReadsReportAndChangeNothingElse : Prop :=
  ∀ (tag : Byte) (s : State), hasRoom s = true →
    let answered (r : Reply) : Host.Outcome State Fault Refusal := .next { refreshSupervision s with
      li := { s.li with replies := s.li.replies ++ [r] } }
    let refused (i : Instr) (kind : Byte) : Prop := exec i s = answered ⟨kind, tag, .range, .empty⟩
    (∀ b : Byte, (2 ≤ b.toNat → refused (.status tag [b]) 0x81)
        ∧ (s.sm.built = true → (b = 0 ∨ 6 < b.toNat) → refused (.stepRead tag [b]) 0x83)
        ∧ ((b = 0 ∨ 8 < b.toNat) → refused (.filterRead tag [b]) 0x8A)
        ∧ ∀ count : Byte, 64 ≤ b.toNat → refused (.vetoRead tag [b, count]) 0x8D)
      ∧ exec (.measure tag []) s = answered ⟨0x82, tag, .ok, .measure s.mu.cycle s.mu.spectrum⟩
      ∧ (∀ k : StepNo, s.sm.built = true → exec (.stepRead tag [BitVec.ofNat 8 (k.val + 1)]) s =
          answered ⟨0x83, tag, .ok, .step ⟨k, s.inService k, s.stp k, s.cfg k,
            decide ((s.cfg k).closeLimit ≤ (s.stp k).closeList.length), s.zeroing.filter fun z => z.step = k⟩⟩)
      ∧ (∀ b : Byte, s.sm.built = false → exec (.stepRead tag [b]) s = answered ⟨0x83, tag, .busy, .empty⟩)
      ∧ (∀ f : FilterNo, exec (.filterRead tag [BitVec.ofNat 8 (f.val + 1)]) s =
          answered ⟨0x8A, tag, .ok, .filter ⟨f, s.fcfg f, s.isEnabled f, s.filt f⟩⟩)
      ∧ (∀ first count : Byte, first.toNat < 64 → ∃ r : VetoReport,
          exec (.vetoRead tag [first, count]) s = answered ⟨0x8D, tag, .ok, .veto r⟩
          ∧ r.first = first.toNat ∧ (r.phase, r.windowId, r.windowComb) = (match s.rl.window with
            | .none => (.none, none, none)
            | .started w => (.started, some w.id, none)
            | .settling w c _ => (.settling, some w.id, some c)
            | .afterWait w c => (.afterWait, some w.id, some c))
          ∧ r.entries.length = min (min (max count.toNat 1) 16) (64 - first.toNat)
          ∧ ∀ i e, r.entries[i]? = some e → ∃ h : first.toNat + i < 64, e = s.rl.table[first.toNat + i])
      ∧ ∃ r : StatusReport, exec (.status tag [0]) s = answered ⟨0x81, tag, .ok, .status r⟩
          ∧ exec (.status tag [1]) s = .next { refreshSupervision s with li := { s.li with
              sticky := Sticky.none, replies := s.li.replies ++ [⟨0x81, tag, .ok, .status r⟩] } }
          ∧ r.mode = s.vc.mode ∧ r.vcState = s.vc.state ∧ r.band = s.vc.band ∧ r.urgentHigh = s.vc.urgentHigh
          ∧ r.vc = s.vc.vc ∧ r.saturated = s.vc.saturated ∧ r.frame = s.vc.frame
          ∧ r.trip = s.yp.trip ∧ r.ov1 = s.yp.ov1 ∧ r.ov2 = s.yp.ov2 ∧ r.dead = s.yp.dead
          ∧ r.tripTimes = s.yp.times.length
          ∧ r.inhibitors.getLsbD 0 = s.blocked ∧ r.inhibitors.getLsbD 1 = decide (s.yp.trip ≠ .normal)
          ∧ r.inhibitors.getLsbD 2 = decide (s.yp.ov1 ≠ .quiet) ∧ r.inhibitors.getLsbD 3 = s.hs.block
          ∧ r.inhibitors.getLsbD 4 = s.vtLoss ∧ r.harmBlock = s.hs.block ∧ r.vtLoss = s.vtLoss
          ∧ r.built = s.sm.built ∧ r.insertion = s.sm.insertion ∧ r.insertionLength = s.sm.insertion.length
          ∧ (∀ k : StepNo, r.steps[k] = ⟨(s.stp k).state, (s.stp k).locks, (s.stp k).alarmFlag⟩)
          ∧ (∀ k : StepNo, mem r.energized k = true ↔ (s.stp k).state = some .closed ∨ (s.stp k).state = some .opening
            ∨ ((s.stp k).state = some .locked ∧ (s.stp k).sensed ≠ some .opened))
          ∧ (∀ a, s.sc.active = some a → r.channel = .active a.op.id)
          ∧ (s.sc.active = none → r.channel = if s.sc.rest = none then .idle else .channelRest)
          ∧ r.waiting = s.sc.waiting.length ∧ r.zeroing = s.zeroing
          ∧ r.events = s.li.events.length ∧ r.gap = s.li.gap ∧ r.attn = s.li.attn
          ∧ r.waitHeld = decide (s.li.held ≠ none) ∧ r.saving = decide (s.store.saving ≠ none)
          ∧ r.sticky = s.li.sticky

/-- OPERATE: BUSY before the table is built, RANGE for a number that is no step's or a byte that is no kind, MODE for
a CLOSE in AUTO, and otherwise a DIRECTED request whose answer is the reply: with the channel occupied by another
step's operation the record waits under the next id, before the CONTROL records (R42), or is refused FULL when four
wait (R48). It merges into a WAITING record of its step and kind, raising a CONTROL one; an OPEN supersedes a WAITING
CLOSE, told CANCELLED with OP-CANCELLED; a CLOSE is refused CONFLICT by a WAITING OPEN (R44, R45, R80, R93, R114,
R168, R172). The reply stands last: log entry 34. -/
def Obligations.OperateQueuesADirectedRequest : Prop :=
  ∀ (tag : Byte) (k : StepNo) (s : State), hasRoom s = true →
    (s.sm.built = false → ∀ b c : Byte, exec (.operate tag [b, c]) s = .next { refreshSupervision s with
        li := { s.li with replies := s.li.replies ++ [⟨0x86, tag, .busy, .empty⟩] } })
      ∧ (s.sm.built = true → ∀ b c : Byte, (b = 0 ∨ 6 < b.toNat ∨ 2 ≤ c.toNat) → exec (.operate tag [b, c]) s =
          .next { refreshSupervision s with
            li := { s.li with replies := s.li.replies ++ [⟨0x86, tag, .range, .empty⟩] } })
      ∧ (s.sm.built = true → s.vc.mode = .auto → exec (.operate tag [BitVec.ofNat 8 (k.val + 1), 0]) s =
          .next { refreshSupervision s with
            li := { s.li with replies := s.li.replies ++ [⟨0x86, tag, .mode, .empty⟩] } })
      ∧ ∀ (kind : OpKind) (a : ActiveOp), s.sm.built = true → (kind = .close → s.vc.mode ≠ .auto) →
          s.sc.active = some a → a.missing ≠ 0 → s.sc.retries[k] = none →
          let command : Instr := .operate tag [BitVec.ofNat 8 (k.val + 1), if kind = .close then 0 else 1]
          let w := s.sc.waiting
          let replied (result : Result) (body : ReplyBody) : Link :=
            { s.li with replies := s.li.replies ++ [⟨0x86, tag, result, body⟩] }
          let new : OpRec := ⟨s.sc.nextId, kind, bit k, .directed, .directed, .li, [], 1, s.clock⟩
          let join (o : OpRec) : OpRec :=
            { o with joined := if Requester.li ∈ o.joined then o.joined else o.joined ++ [.li] }
          let placed (o : OpRec) (l : List OpRec) (t : State) : Prop := ∃ pre post, l = pre ++ post
            ∧ (∀ x ∈ pre, x.cls ≠ .control) ∧ (∀ x, post.head? = some x → x.cls = .control)
            ∧ t.sc.waiting = pre ++ o :: post
          let cancelled (o : OpRec) (reason : Int) (t : State) : Prop :=
            let told (b : Requester) := o.requester = b ∨ b ∈ o.joined
            (∀ x, s.vc.state = .awaiting x → told .vc → x.id = o.id → t.vc.state = .watch)
              ∧ ((∀ x, s.vc.state = .awaiting x → ¬(told .vc ∧ x.id = o.id)) → t.vc.state = s.vc.state)
              ∧ (∀ f : FilterNo, (t.filt f).removal =
                  if told .hs ∧ (s.filt f).removal = .inHand o.id then .complete else (s.filt f).removal)
              ∧ (s.li.events.length ≤ 50 → ⟨s.clock, .opCancelled, .info, single o.steps, some o.id,
                  some (o.steps.toNat : Int), some reason⟩ ∈ t.li.events)
          (mem a.op.steps k = false → ((∀ x ∈ w, mem x.steps k = false) → w.length < 4 → ∃ t, exec command s = .next t
              ∧ placed new w t ∧ t = { refreshSupervision s with
                sc := { s.sc with nextId := s.sc.nextId + 1, waiting := t.sc.waiting }
                li := replied .accepted (.operation s.sc.nextId) })
            ∧ ((∀ x ∈ w, mem x.steps k = false) → 4 ≤ w.length →
              exec command s = .next { refreshSupervision s with li := replied .full .empty })
            ∧ ∀ pre o post, w = pre ++ o :: post → (∀ x ∈ pre ++ post, mem x.steps k = false) → mem o.steps k = true →
              ∃ t, exec command s = .next t ∧ (o.kind = kind → (o.cls ≠ .control → t.sc.waiting = pre ++ join o :: post)
                  ∧ (o.cls = .control → placed { join o with cls := .directed, cause := .directed } (pre ++ post) t)
                  ∧ t = { refreshSupervision s with
                    sc := { s.sc with waiting := t.sc.waiting }, li := replied .accepted (.operation o.id) })
                ∧ (o.kind = .open_ → kind = .close →
                  t = { refreshSupervision s with li := replied .conflict .empty })
                ∧ (o.kind = .close → kind = .open_ → (pre ++ post).length < 4 → placed new (pre ++ post) t
                  ∧ t.sc = { s.sc with nextId := s.sc.nextId + 1, waiting := t.sc.waiting } ∧ cancelled o 0 t
                  ∧ t.li.replies.getLast? = some ⟨0x86, tag, .accepted, .operation s.sc.nextId⟩
                  ∧ t = { s with sc := t.sc, vc := t.vc, hs := t.hs, li := t.li }))
          ∧ (mem a.op.steps k = false → s.sc.waiting = [] →
            exec (.operate tag [BitVec.ofNat 8 (k.val + 1), if kind = .close then 0 else 1]) s =
              .next { refreshSupervision s with
                sc := { s.sc with
                  nextId := s.sc.nextId + 1
                  waiting := [⟨s.sc.nextId, kind, bit k, .directed, .directed, .li, [], 1, s.clock⟩] }
                li := { s.li with
                  replies := s.li.replies ++ [⟨0x86, tag, .accepted, .operation s.sc.nextId⟩] } })
          ∧ (mem a.op.steps k = true → kind = .open_ → a.op.kind = .open_ →
            exec (.operate tag [BitVec.ofNat 8 (k.val + 1), 1]) s = .next { refreshSupervision s with
                li := { s.li with replies := s.li.replies ++ [⟨0x86, tag, .ok, .operation a.op.id⟩] } })
          ∧ (mem a.op.steps k = true → (kind = .close ∨ a.op.kind = .close) →
            exec (.operate tag [BitVec.ofNat 8 (k.val + 1), if kind = .close then 0 else 1]) s =
              .next { refreshSupervision s with
                li := { s.li with replies := s.li.replies ++ [⟨0x86, tag, .conflict, .empty⟩] } })

/-- The settings writes STEP_CONFIG, CONTROL_CONFIG, YARD_CONFIG and FILTER_CONFIG: a taken request holds exactly the
settings its payload carries, and a refused one writes nothing: BUSY while a SAVE is in flight, RANGE where the
payload parses to none, STATE for a step that is not OFFLINE, for an enabled filter, and in a tripped yard for a
change of a setting of Table 9-1, while one that leaves them is taken there (R37, R99, R118, R162, R169, R173). A
payload parses to settings exactly when it carries them in the order of section 10.3 and every value is inside its
table's range, on its table's step (the step an inference: log entry 10) and by the rules among values (R37, R97,
R118, R162, R168). CONTROL_CONFIG clamps the estimates when it changes DV-MIN or DV-MAX, with ESTIMATE-CLAMPED (R97),
sets the supervision deadline afresh (R81), discards a sample when it changes LDC-R or LDC-X (R96), and moves no raise
or lower timer that runs; the URGENT-DELAY that may shorten a running one stays that of its start (R99; log entry 36).
That a FREQUENCY written back within its cycle still restarts the timebase is an inference: log entry 26. The reply
stands last: log entry 34. -/
def Obligations.SettingsWritesAreTakenAsAWhole : Prop :=
  (∀ (tag : Byte) (p : List Byte) (s : State), hasRoom s = true →
    let refused (i : Instr) (kind : Byte) (r : Result) : Prop := exec i s = .next { refreshSupervision s with
        li := { s.li with replies := s.li.replies ++ [⟨kind, tag, r, .empty⟩] } }
    let protection (y : YardSettings) :=
      (y.ov1Level, y.ov1Delay, y.ov2Level, y.ov2Delay, y.deadLevel, y.deadDelay, y.restoreLevel, y.yardTripMode,
        y.restoreDelay, y.retryLimit, y.retryWindow)
    (s.store.saving ≠ none → (p.length = 41 → refused (.stepConfig tag p) 0x84 .busy)
        ∧ (p.length = 31 → refused (.controlConfig tag p) 0x88 .busy)
        ∧ (p.length = 38 → refused (.yardConfig tag p) 0x89 .busy)
        ∧ (p.length = 17 → refused (.filterConfig tag p) 0x8B .busy))
      ∧ (s.store.saving = none → p.length = 31 →
          (parseControl p = none → refused (.controlConfig tag p) 0x88 .range)
          ∧ ∀ c, parseControl p = some c →
          ∃ t, exec (.controlConfig tag p) s = .next t ∧ t.settings.control = c
            ∧ t.settings.yard = s.settings.yard ∧ t.settings.filters = s.settings.filters
            ∧ t.vc.vc = s.vc.vc ∧ t.vc.mode = s.vc.mode ∧ t.sm = s.sm ∧ t.sc = s.sc ∧ t.yp = s.yp
            ∧ t.vc.urgentHeld = s.vc.urgentHeld
            ∧ t.vc.supervision = (if s.vc.mode = .remote ∧ c.supervision ≠ 0 then
                some (addSec s.clock c.supervision) else none)
            ∧ (∀ k : StepNo,
              let old := (s.cfg k).dvEstimate
              let new := if c.dvMin = s.settings.control.dvMin ∧ c.dvMax = s.settings.control.dvMax then old
                else if old < c.dvMin then c.dvMin else if c.dvMax < old then c.dvMax else old
              t.cfg k = { s.cfg k with dvEstimate := new } ∧ (new ≠ old → s.li.events.length ≤ 50 →
                ⟨s.clock, .estimateClamped, .info, some k, none, some old, some new⟩ ∈ t.li.events))
            ∧ ((∀ x d, s.vc.state ≠ .settling x d) → t.vc.state = s.vc.state)
            ∧ (∀ x d, s.vc.state = .settling x d →
              (c.ldcR = s.settings.control.ldcR → c.ldcX = s.settings.control.ldcX → t.vc.state = s.vc.state)
              ∧ ((c.ldcR ≠ s.settings.control.ldcR ∨ c.ldcX ≠ s.settings.control.ldcX) → t.vc.state = .watch
                ∧ (s.li.events.length ≤ 50 →
                  ⟨s.clock, .learnDiscarded, .info, some x.step, some x.id, some 7, none⟩ ∈ t.li.events)))
            ∧ t.li.replies.getLast? = some ⟨0x88, tag, .ok, .empty⟩)
      ∧ (s.store.saving = none → p.length = 38 →
          (parseYard p = none → refused (.yardConfig tag p) 0x89 .range)
          ∧ ∀ y, parseYard p = some y →
          (s.yp.trip ≠ .normal → protection y ≠ protection s.settings.yard → refused (.yardConfig tag p) 0x89 .state)
          ∧ ((s.yp.trip = .normal ∨ protection y = protection s.settings.yard) →
            ∃ t, exec (.yardConfig tag p) s = .next t ∧ t.settings = { s.settings with yard := y }
              ∧ t.vc.vc = s.vc.vc ∧ t.vc.mode = s.vc.mode ∧ t.sm = s.sm ∧ t.sc = s.sc ∧ t.yp.trip = s.yp.trip
              ∧ (protection y = protection s.settings.yard → t.yp = s.yp)
              ∧ t.mu = { s.mu with freqChange := s.mu.freqChange || s.settings.yard.frequency ≠ y.frequency }
              ∧ t.li.replies.getLast? = some ⟨0x89, tag, .ok, .empty⟩))
      ∧ (s.store.saving = none → p.length = 41 →
          (s.sm.built = false → refused (.stepConfig tag p) 0x84 .busy)
          ∧ (s.sm.built = true → ∀ b, p.head? = some b → (b = 0 ∨ 6 < b.toNat) →
              refused (.stepConfig tag p) 0x84 .range)
          ∧ (s.sm.built = true → ∀ k : StepNo, p.head? = some (BitVec.ofNat 8 (k.val + 1)) →
            ((s.stp k).state ≠ some .offline → refused (.stepConfig tag p) 0x84 .state)
            ∧ ((s.stp k).state = some .offline → parseStep s.settings.control.dvMin s.settings.control.dvMax p = none →
                refused (.stepConfig tag p) 0x84 .range)
            ∧ ((s.stp k).state = some .offline →
                ∀ c, parseStep s.settings.control.dvMin s.settings.control.dvMax p = some c →
                ∃ t, exec (.stepConfig tag p) s = .next t ∧ t.cfg k = c ∧ (∀ j, j ≠ k → t.cfg j = s.cfg j)
                  ∧ t.settings.control = s.settings.control ∧ t.settings.yard = s.settings.yard
                  ∧ (∀ j, j ≠ k → t.stp j = s.stp j) ∧ (t.stp k).state = some .offline ∧ (t.stp k).alarmFlag = false
                  ∧ (t.stp k).closeList = (s.stp k).closeList ∧ (t.stp k).discharge = (s.stp k).discharge
                  ∧ t.sc = s.sc ∧ t.li.replies.getLast? = some ⟨0x84, tag, .ok, .empty⟩)))
      ∧ (s.store.saving = none → p.length = 17 →
          (∀ b, p.head? = some b → (b = 0 ∨ 8 < b.toNat) → refused (.filterConfig tag p) 0x8B .range)
          ∧ ∀ f : FilterNo, p.head? = some (BitVec.ofNat 8 (f.val + 1)) →
            (s.isEnabled f = true → refused (.filterConfig tag p) 0x8B .state)
            ∧ (s.isEnabled f = false → parseFilter p = none → refused (.filterConfig tag p) 0x8B .range)
            ∧ (s.isEnabled f = false → ∀ c, parseFilter p = some c →
              exec (.filterConfig tag p) s = .next { refreshSupervision s with
                settings := { s.settings with filters := s.settings.filters.set f c }
                li := { s.li with replies := s.li.replies ++ [⟨0x8B, tag, .ok, .empty⟩] } })))
    ∧ ∀ (p : List Byte) (dvMin dvMax : Nat) (u : StepSettings) (c : ControlSettings) (y : YardSettings)
        (f : FilterSettings),
      let byte (i : Nat) : Nat := (p[i]?.getD 0).toNat
      let word (i : Nat) : Nat := byte i * 256 + byte (i + 1)
      let words (i n : Nat) : List Nat := (List.range n).map fun j => word (i + 2 * j)
      let signed (i : Nat) : Int := if word i < 32768 then word i else (word i : Int) - 65536
      let within (l : List (Nat × Nat × Nat × Nat)) : Prop := ∀ x ∈ l,
        x.2.1 ≤ x.1 ∧ x.1 ≤ x.2.2.1 ∧ (x.1 - x.2.1) % x.2.2.2 = 0
      (p.length = 41 → (parseStep dvMin dvMax p = some u ↔
          [u.contactFilter, u.operateTimeout, u.closePulse, u.openPulse, u.retryCount, u.retryInterval, u.discharge,
            u.closeLimit, u.restWindow, u.minClosed] = words 1 10
          ∧ [u.inherentX, u.inherentY] = [signed 21, signed 23]
          ∧ [u.refV, u.inrushHold, u.unbAlarm, u.unbTrip, u.alarmDelay, u.tripDelay] = words 25 6
          ∧ u.dvEstimate = word 37 ∧ [CloseFailMode.lock, .retry, .report][byte 39]? = some u.closeFailMode
          ∧ [TripMode.latch, .report, .off][byte 40]? = some u.tripMode
          ∧ within [(u.contactFilter, 2, 50, 1), (u.operateTimeout, 50, 2000, 10), (u.closePulse, 20, 500, 10),
            (u.openPulse, 20, 500, 10), (u.retryCount, 1, 3, 1), (u.retryInterval, 5, 300, 1), (u.discharge, 60, 900, 1),
            (u.closeLimit, 1, 8, 1), (u.restWindow, 1, 24, 1), (u.minClosed, 0, 3600, 1), (u.refV, 9000, 11000, 1),
            (u.inrushHold, 0, 2000, 1), (u.unbAlarm, 1, 30000, 1), (u.unbTrip, 1, 30000, 1), (u.alarmDelay, 1, 600, 1),
            (u.tripDelay, 20, 10000, 1)]
          ∧ u.closePulse ≤ u.operateTimeout ∧ u.openPulse ≤ u.operateTimeout ∧ u.unbAlarm < u.unbTrip
          ∧ dvMin ≤ word 37 ∧ word 37 ≤ dvMax))
      ∧ (p.length = 31 → (parseControl p = some c ↔
          [c.ldcR, c.ldcX, c.setpoint, c.bandwidth, c.urgentMargin, c.supervision, c.raiseDelay, c.lowerDelay,
            c.urgentDelay, c.jitterMax, c.predictMargin, c.settle, c.dvMin, c.dvMax] = words 0 14
          ∧ [Mode.auto, .remote, .hold][byte 28]? = some c.startMode ∧ [Fallback.auto, .hold][byte 29]? = some c.fallback
          ∧ [RemovalOrder.fifo, .lifo][byte 30]? = some c.removalOrder
          ∧ within [(c.ldcR, 0, 5000, 1), (c.ldcX, 0, 5000, 1), (c.setpoint, 9000, 11000, 1), (c.bandwidth, 100, 2000, 2),
            (c.urgentMargin, 50, 2000, 1), (c.raiseDelay, 5, 600, 1), (c.lowerDelay, 5, 600, 1), (c.urgentDelay, 1, 60, 1),
            (c.jitterMax, 0, 60, 1), (c.predictMargin, 0, 500, 1), (c.settle, 2, 30, 1), (c.dvMin, 10, 1500, 1),
            (c.dvMax, 10, 1500, 1)]
          ∧ (c.supervision = 0 ∨ (10 ≤ c.supervision ∧ c.supervision ≤ 3600)) ∧ c.dvMin ≤ c.dvMax))
      ∧ (p.length = 38 → (parseYard p = some y ↔
          [y.restInterval, y.resFloor, y.resRatio, y.vetoLevel, y.suspectHold, y.vetoHold, y.ov1Level, y.ov1Delay,
            y.ov2Level, y.ov2Delay, y.deadLevel, y.deadDelay, y.restoreLevel, y.restoreDelay, y.retryLimit,
            y.retryWindow] = words 0 16
          ∧ [Frequency.hz50, .hz60][byte 32]? = some y.frequency
          ∧ [Selection.average, .highest, .lowest][byte 33]? = some y.selection
          ∧ [BlockOverride.follow, .force, .ignore][byte 34]? = some y.blockOverride
          ∧ [false, true][byte 35]? = some y.evict ∧ [YardTripMode.auto, .latch][byte 36]? = some y.yardTripMode
          ∧ [EvClass.info, .alarm, .trip][byte 37]? = some y.attnClass
          ∧ within [(y.restInterval, 1, 60, 1), (y.resFloor, 20, 2000, 1), (y.resRatio, 120, 1000, 1),
            (y.vetoLevel, 100, 5000, 1), (y.suspectHold, 10, 1440, 1), (y.vetoHold, 10, 1440, 1),
            (y.ov1Level, 10500, 13000, 1), (y.ov1Delay, 1, 60, 1), (y.ov2Level, 11000, 15000, 1), (y.ov2Delay, 20, 2000, 10),
            (y.deadLevel, 1000, 7000, 1), (y.deadDelay, 50, 5000, 10), (y.restoreLevel, 5000, 9500, 1),
            (y.restoreDelay, 1, 600, 1), (y.retryLimit, 0, 10, 1), (y.retryWindow, 1, 24, 1)]
          ∧ y.ov1Level < y.ov2Level ∧ y.deadLevel < y.restoreLevel))
      ∧ (p.length = 17 → (parseFilter p = some f ↔
          [Source.voltage, .yardCurrent][byte 1]? = some f.source ∧ f.orders.toNat = byte 2 * 65536 + word 3
          ∧ [Measure.rss, .sum][byte 5]? = some f.measure ∧ [f.threshold] = words 6 1
          ∧ [false, true][byte 8]? = some f.invert
          ∧ [Qualifier.always, .anyEnergized, .contains, .voltageHigh, .fresh][byte 9]? = some f.qualifier
          ∧ f.qualifierSteps.toNat = byte 10 ∧ [f.pickup, f.dropout] = words 11 2
          ∧ [Action.alarm, .blockClose, .removeLast, .tripAll][byte 15]? = some f.action
          ∧ [Response.selfReset, .latched][byte 16]? = some f.response
          ∧ within [(f.threshold, 1, 20000, 1), (f.pickup, 0, 60, 1), (f.dropout, 0, 60, 1)]
          ∧ f.orders ≠ 0 ∧ (f.qualifier = .contains ↔ f.qualifierSteps ≠ 0)))

/-- SERVICE and FILTER_ENABLE form the new set by the set-form: WRITE, SET, CLEAR, TOGGLE (R169). A step may be added
when it is OFFLINE or LOCKED, and removed when it is COOLING, READY, OFFLINE or LOCKED at OPEN with no operation on it
ACTIVE; a step that may not change refuses the whole SERVICE with STATE. Taken changes move the step at once, and an
added or removed filter is QUIET (R35, R36, R117). Both are answered BUSY while a SAVE is in flight, SERVICE also
before the build, and RANGE for a set-form above 3 or a step above 6 (R39, R168, R169). The reply stands last: log
entry 34. -/
def Obligations.SetFormsChangeMembership : Prop :=
  (∀ (tag b list : Byte) (s : State), hasRoom s = true →
    let refused (i : Instr) (kind : Byte) (r : Result) : Prop := exec i s = .next { refreshSupervision s with
      li := { s.li with replies := s.li.replies ++ [⟨kind, tag, r, .empty⟩] } }
    ((s.store.saving ≠ none ∨ s.sm.built = false) → refused (.service tag [b, list]) 0x85 .busy)
      ∧ (s.store.saving ≠ none → refused (.filterEnable tag [b, list]) 0x8C .busy)
      ∧ (s.store.saving = none → s.sm.built = true → (4 ≤ b.toNat ∨ 64 ≤ list.toNat) →
        refused (.service tag [b, list]) 0x85 .range)
      ∧ (s.store.saving = none → 4 ≤ b.toNat → refused (.filterEnable tag [b, list]) 0x8C .range))
  ∧ (∀ (tag b : Byte) (f : SetForm) (list : Comb) (s : State), hasRoom s = true → s.store.saving = none →
    s.sm.built = true → formOfByte b.toNat = some f → ∃ t, exec (.service tag [b, list.setWidth 8]) s = .next t ∧
      let new := match f with
        | .write => list
        | .set => s.settings.inService ||| list
        | .clear => s.settings.inService &&& ~~~list
        | .toggle => s.settings.inService ^^^ list
      let allowed (k : StepNo) : Prop := (s.stp k).state = some .offline
        ∨ (mem new k = true ∧ (s.stp k).state = some .locked)
        ∨ (mem new k = false ∧ ((s.stp k).state = some .cooling ∨ (s.stp k).state = some .ready
          ∨ ((s.stp k).state = some .locked ∧ (s.stp k).sensed = some .opened
            ∧ ∀ a, s.sc.active = some a → mem a.op.steps k = false)))
      ((∃ k, mem new k ≠ s.inService k ∧ ¬allowed k) →
        t = { refreshSupervision s with
          li := { s.li with replies := s.li.replies ++ [⟨0x85, tag, .state, .empty⟩] } })
      ∧ ((∀ k, mem new k ≠ s.inService k → allowed k) →
        t.settings = { s.settings with inService := new }
        ∧ t.li.replies.getLast? = some ⟨0x85, tag, .ok, .empty⟩
        ∧ ∀ k, (mem new k = s.inService k → t.stp k = s.stp k)
          ∧ (mem new k = true → s.inService k = false → (s.stp k).state = some .offline →
              (t.stp k).state = some (if (s.stp k).discharge = none then .ready else .cooling))
          ∧ (mem new k = true → s.inService k = false → (s.stp k).state = some .locked → t.stp k = s.stp k)
          ∧ (mem new k = false → s.inService k = true → (t.stp k).state = some .offline)
          ∧ (mem new k = false → s.inService k = true → (s.stp k).state = some .locked → (t.stp k).locks = 0)
          ∧ (t.stp k).discharge = (s.stp k).discharge ∧ (t.stp k).closeList = (s.stp k).closeList))
    ∧ ∀ (tag b list : Byte) (f : SetForm) (s : State), hasRoom s = true → s.store.saving = none →
      formOfByte b.toNat = some f → ∃ t, exec (.filterEnable tag [b, list]) s = .next t ∧
        let new := match f with
          | .write => list
          | .set => s.settings.enabled ||| list
          | .clear => s.settings.enabled &&& ~~~list
          | .toggle => s.settings.enabled ^^^ list
        t.settings = { s.settings with enabled := new }
          ∧ (∀ g : FilterNo, new.getLsbD g.val = s.isEnabled g → t.filt g = s.filt g)
          ∧ (∀ g : FilterNo, new.getLsbD g.val ≠ s.isEnabled g → t.filt g = ⟨.quiet, false, none, none, .none⟩)
          ∧ t.sc = s.sc ∧ t.sm = s.sm ∧ t.li.replies.getLast? = some ⟨0x8C, tag, .ok, .empty⟩

/-- ACKNOWLEDGE STEP: a LOCKED step at OPEN with no operation on it loses its lock reasons and goes to COOLING, READY
or OFFLINE; a LOCKED step otherwise is refused CONDITION; every taken one clears the unbalance-alarm flag (R34, R142).
It is BUSY before the build and RANGE for a number that is no step's, and a frame of kind ACKNOWLEDGE whose target is
none of STEP, FILTER and YARD is refused RANGE (R39, R168, R169). The reply stands last: log entry 34. -/
def Obligations.AcknowledgeReleasesALockedOpenStep : Prop :=
  (∀ (tag b n : Byte) (s : State), hasRoom s = true →
    let answered (r : Result) : State := { refreshSupervision s with
      li := { s.li with replies := s.li.replies ++ [⟨0x91, tag, r, .empty⟩] } }
    (s.sm.built = false → exec (.acknowledgeStep tag [n]) s = .next (answered .busy))
      ∧ (s.sm.built = true → (n = 0 ∨ 6 < n.toNat) → exec (.acknowledgeStep tag [n]) s = .next (answered .range))
      ∧ (3 ≤ b.toNat → handleFrame 0x11 tag [b, n] s = answered .range))
  ∧ ∀ (tag : Byte) (k : StepNo) (s : State), hasRoom s = true → s.sm.built = true →
    ∃ t, exec (.acknowledgeStep tag [BitVec.ofNat 8 (k.val + 1)]) s = .next t
      ∧ ((s.stp k).state = some .locked → (s.stp k).sensed = some .opened → s.activeOn k = false →
          (t.stp k).locks = 0 ∧ (t.stp k).commanded = .opened ∧ (t.stp k).alarmFlag = false
          ∧ (t.stp k).state = some (if s.inService k = false then .offline
              else if (s.stp k).discharge = none then .ready else .cooling)
          ∧ t.li.replies.getLast? = some ⟨0x91, tag, .ok, .empty⟩)
      ∧ ((s.stp k).state = some .locked → ((s.stp k).sensed ≠ some .opened ∨ s.activeOn k = true) →
          t = { refreshSupervision s with
            li := { s.li with replies := s.li.replies ++ [⟨0x91, tag, .condition, .empty⟩] } })
      ∧ ((s.stp k).state ≠ some .locked → (t.stp k).state = (s.stp k).state ∧ (t.stp k).locks = (s.stp k).locks
          ∧ (t.stp k).alarmFlag = false ∧ t.li.replies = s.li.replies ++ [⟨0x91, tag, .ok, .empty⟩])
      ∧ (∀ j, j ≠ k → t.stp j = s.stp j) ∧ t.settings = s.settings ∧ t.sc.active = s.sc.active ∧ t.yp = s.yp

/-- EVENTS hands out the oldest records, at most its count clamped to 1 to 8, clears the gap flag and re-forms ATTN;
WAIT is answered at once when a record of its mask is queued, held when none is, BUSY when one is held already, and
RANGE for an empty mask or one with a bit for no class (R175 to R177). -/
def Obligations.EventsAndWaitServeTheQueue : Prop :=
  (∀ (tag n : Byte) (s : State), hasRoom s = true →
    let count := min (max n.toNat 1) 8
    exec (.events tag [n]) s = .next { refreshSupervision s with li := { s.li with
      events := s.li.events.drop count
      gap := false
      attn := (s.li.events.drop count).any fun e => s.settings.yard.attnClass.rank ≤ e.cls.rank
      replies := s.li.replies ++ [⟨0x92, tag, .ok, .events (s.li.events.take count)
        (min count s.li.events.length) s.li.gap (s.li.events.length - count)⟩] } })
    ∧ ∀ (tag hi lo : Byte) (mask : BitVec 3) (s : State), hasRoom s = true →
      (∀ b : Byte, 8 ≤ b.toNat → exec (.wait tag [b, hi, lo]) s = .next { refreshSupervision s with
          li := { s.li with replies := s.li.replies ++ [⟨0x93, tag, .range, .empty⟩] } })
      ∧ (mask = 0 → exec (.wait tag [mask.setWidth 8, hi, lo]) s = .next { refreshSupervision s with li := { s.li with
          replies := s.li.replies ++ [⟨0x93, tag, .range, .empty⟩] } })
      ∧ (mask ≠ 0 → s.li.held ≠ none →
          exec (.wait tag [mask.setWidth 8, hi, lo]) s = .next { refreshSupervision s with li := { s.li with
            replies := s.li.replies ++ [⟨0x93, tag, .busy, .empty⟩] } })
      ∧ (mask ≠ 0 → s.li.held = none → (∀ e ∈ s.li.events, inMask mask e.cls = false) →
          exec (.wait tag [mask.setWidth 8, hi, lo]) s = .next { refreshSupervision s with li := { s.li with
            held := some ⟨tag, mask, addSec s.clock (min (max (hi.toNat * 256 + lo.toNat) 1) 600)⟩ } })
      ∧ ∀ e, mask ≠ 0 → s.li.held = none → (s.li.events.find? fun r => inMask mask r.cls) = some e →
          exec (.wait tag [mask.setWidth 8, hi, lo]) s = .next { refreshSupervision s with li := { s.li with
            replies := s.li.replies ++ [⟨0x93, tag, .event, .waitEvent e.kind e.cls e.time s.li.events.length⟩] } }

/-- SAVE puts the working settings in flight to the slot that is not the newest valid one, with the next generation;
SAVE_END makes that slot the newest valid one when the readback matches and leaves it invalid when it does not; the
other slot is never touched (R179). The write in flight is as SAVE put it there: to the slot that is not the newest
valid one, with a generation one greater. A SAVE while one is in flight is answered BUSY (R169). That the slot being
written is not valid is an inference: log entry 23. -/
def Obligations.SaveWritesTheOtherSlot : Prop :=
  (∀ (tag : Byte) (s : State), hasRoom s = true → s.store.saving ≠ none → exec (.save tag []) s = .next
      { refreshSupervision s with li := { s.li with replies := s.li.replies ++ [⟨0x94, tag, .busy, .empty⟩] } })
  ∧ (∀ (tag : Byte) (s : State), hasRoom s = true → s.store.saving = none →
    ∃ t, exec (.save tag []) s = .next t ∧ t.settings = s.settings
      ∧ t.li = { s.li with replies := s.li.replies ++ [⟨0x94, tag, .accepted, .empty⟩] }
      ∧ (∀ n, s.store.newest = some n → ∃ v, t.store.saving = some v ∧ v.slot ≠ n ∧ v.image = s.settings
          ∧ v.gen = (s.store.slot n).gen + 1 ∧ v.limit = addMs s.clock 400
          ∧ t.store.slot n = s.store.slot n ∧ (t.store.slot v.slot).valid = false)
      ∧ (s.store.newest = none → t.store.saving = some ⟨.a, s.settings, 1, addMs s.clock 400⟩)
      ∧ t = { s with vc := (refreshSupervision s).vc, store := t.store, li := t.li })
    ∧ ∀ (s : State) (v : Saving), s.store.saving = some v →
      (∃ t, exec (.saveEnd true) s = .next t ∧ t.store.saving = none
        ∧ t.store.slot v.slot = ⟨v.image, v.gen, true⟩
        ∧ (∀ n, n ≠ v.slot → t.store.slot n = s.store.slot n)
        ∧ ((∀ n, s.store.newest = some n → n ≠ v.slot ∧ v.gen = (s.store.slot n).gen + 1) →
            t.store.newest = some v.slot)
        ∧ t.li = s.li.append s.settings.yard.attnClass
            ⟨s.clock, .saveDone, .info, none, none, some (v.gen.toNat : Int), none⟩
        ∧ t = { s with store := t.store, li := t.li })
      ∧ ∃ t, exec (.saveEnd false) s = .next t ∧ t.store = { s.store with saving := none }
        ∧ t.li = s.li.append s.settings.yard.attnClass ⟨s.clock, .saveFail, .alarm, none, none, none, none⟩
        ∧ t = { s with store := t.store, li := t.li }

/-- RESTART is refused BUSY while a SAVE is in flight or the channel is occupied; a taken one answers the held WAIT
CANCELLED, then itself OK, appends WARM-START before every other record (R182), keeps the clock, the frames, the mode,
the Resonance Table, the trip state, and of every step the contacts, positions and times, the deadlines, the close
list, both counters and the last operation, with the build marker and the Insertion List in its order (R40, R78), and
leaves every timed stage QUIET and no window, no sample, no running timer and no zeroing (R11, R40, R101, R120, R135,
R152, R164). The image's settings are reloaded, each estimate clamped to its limits (R97, R101), and the stored
in-service set moves each step whose membership differs as SERVICE does, but for a step removed that is CLOSED, or
LOCKED and not at OPEN, which keeps its membership and its state with SERVICE-KEPT (R36, R40). That a pending contact
change keeps its deadline is an inference (log entry 22), and so is that a step removed from service keeps its commanded
position (log entry 28). -/
def Obligations.RestartKeepsWhatTheChaptersKeep : Prop :=
  ∀ (tag : Byte) (s : State), hasRoom s = true →
    ((s.store.saving ≠ none ∨ occupied s = true) → exec (.restart tag []) s = .next { refreshSupervision s with
        li := { s.li with replies := s.li.replies ++ [⟨0x95, tag, .busy, .empty⟩] } })
      ∧ (s.store.saving = none → occupied s = false → ∃ t, exec (.restart tag []) s = .next t
        ∧ t.clock = s.clock ∧ t.vc.mode = s.vc.mode ∧ t.vc.vc = s.vc.vc ∧ t.mu.cycle = s.mu.cycle
        ∧ t.mu.spectrum = s.mu.spectrum ∧ t.rl.table = s.rl.table ∧ t.store = s.store ∧ t.sc.rest = s.sc.rest
        ∧ t.sc.nextId = s.sc.nextId ∧ t.yp.trip = s.yp.trip ∧ t.yp.times = s.yp.times
        ∧ t.yp.ov1 = .quiet ∧ t.yp.ov2 = .quiet ∧ t.yp.dead = .quiet ∧ t.zeroing = none ∧ t.hs.block = false
        ∧ t.li.held = none ∧ t.li.rx = s.li.rx
        ∧ ((∀ w, s.rl.window ≠ .started w) → t.rl.window = .none)
        ∧ t.vc.state = (if s.vc.mode = .auto then .watch else .suspended)
        ∧ (s.li.held = none → t.li.replies = s.li.replies ++ [⟨0x95, tag, .ok, .empty⟩])
        ∧ (∀ w, s.li.held = some w →
            t.li.replies = s.li.replies ++ [⟨0x93, w.tag, .cancelled, .empty⟩, ⟨0x95, tag, .ok, .empty⟩])
        ∧ (s.li.events.length ≤ 24 → ∃ more, t.li.events =
            s.li.events ++ ⟨s.clock, .warmStart, .info, none, none, none, none⟩ :: more)
        ∧ (∀ f : FilterNo, t.filt f = ⟨.quiet, false, none, none, .none⟩)
        ∧ (∀ k : StepNo, (t.stp k).posA = (s.stp k).posA ∧ (t.stp k).posB = (s.stp k).posB
            ∧ (t.stp k).sensed = (s.stp k).sensed ∧ (t.stp k).closeList = (s.stp k).closeList
            ∧ (t.stp k).closeCount = (s.stp k).closeCount ∧ (t.stp k).discharge = (s.stp k).discharge
            ∧ (t.stp k).openCount = (s.stp k).openCount ∧ (t.stp k).lastOp = (s.stp k).lastOp
            ∧ (t.stp k).openSince = (s.stp k).openSince ∧ (t.stp k).closedSince = (s.stp k).closedSince
            ∧ (t.stp k).watch = (s.stp k).watch ∧ (t.stp k).minClosed = (s.stp k).minClosed
            ∧ (t.stp k).inrush = (s.stp k).inrush ∧ (t.stp k).commanded = (s.stp k).commanded
            ∧ (t.stp k).alarmFlag = (s.stp k).alarmFlag
            ∧ (t.stp k).alarmStage = .quiet ∧ (t.stp k).tripStage = .quiet)
        ∧ t.sm.built = s.sm.built ∧ t.sm.establish = s.sm.establish ∧ t.sc.block = s.sc.block ∧ t.sc.coils = s.sc.coils
        ∧ (InsertionLaw s → t.sm.insertion = s.sm.insertion)
        ∧ (s.store.image = none → t.settings = s.settings ∧ t.li.sticky.storeInvalid = true
          ∧ ∀ k : StepNo, t.stp k =
            { s.stp k with latest := (t.stp k).latest, alarmStage := .quiet, tripStage := .quiet })
        ∧ ∀ img, s.store.image = some img → t.settings.control = img.control ∧ t.settings.yard = img.yard
            ∧ t.settings.filters = img.filters ∧ t.settings.enabled = img.enabled
            ∧ (∀ k : StepNo, t.cfg k = { img.steps[k] with
                dvEstimate := if img.steps[k].dvEstimate < img.control.dvMin then img.control.dvMin
                  else if img.control.dvMax < img.steps[k].dvEstimate then img.control.dvMax
                  else img.steps[k].dvEstimate })
            ∧ (∀ k : StepNo, (t.stp k).leave = if (s.cfg k).restWindow = img.steps[k].restWindow then (s.stp k).leave
                else (s.stp k).closeList.head?.map fun c => addHour c img.steps[k].restWindow)
            ∧ (s.sm.built = false → t.settings.inService = img.inService ∧ ∀ k, (t.stp k).state = (s.stp k).state)
            ∧ (s.sm.built = true → ∀ k : StepNo,
              let kept := t.inService k = s.inService k ∧ (t.stp k).state = (s.stp k).state
                ∧ (t.stp k).locks = (s.stp k).locks
              (mem img.inService k = s.inService k → kept)
                ∧ (mem img.inService k = true → s.inService k = false → t.inService k = true
                  ∧ (t.stp k).locks = (s.stp k).locks
                  ∧ (t.stp k).state = if (s.stp k).state ≠ some .offline then (s.stp k).state
                      else some (if (s.stp k).discharge = none then .ready else .cooling))
                ∧ (mem img.inService k = false → s.inService k = true →
                  (((s.stp k).state = some .cooling ∨ (s.stp k).state = some .ready) →
                    t.inService k = false ∧ (t.stp k).state = some .offline ∧ (t.stp k).locks = (s.stp k).locks)
                  ∧ ((s.stp k).state = some .locked → (s.stp k).sensed = some .opened →
                    t.inService k = false ∧ (t.stp k).state = some .offline ∧ (t.stp k).locks = 0
                      ∧ (s.li.events.length ≤ 24 → ⟨s.clock, .stepUnlock, .info, some k, none,
                          some ((s.stp k).locks.toNat : Int), none⟩ ∈ t.li.events))
                  ∧ (((s.stp k).state = some .closed
                      ∨ ((s.stp k).state = some .locked ∧ (s.stp k).sensed ≠ some .opened)) →
                    kept ∧ (s.li.events.length ≤ 24 →
                      ⟨s.clock, .serviceKept, .info, some k, none, none, none⟩ ∈ t.li.events)))))

/-- BYTE_RECEIVED: in HUNT a byte other than the sync byte changes nothing, and the sync byte starts a frame with its
inter-byte limit (21 ms: log entry 16). The bytes of a frame, taken one after another from HUNT, run the handling of
that frame once, at the last byte, and leave the receiver in HUNT; with any other two check bytes, and with a length
above 250 already at the length byte, the frame is discarded: the receiver is in HUNT and nothing else has changed
(R165 to R167). -/
def Obligations.AFrameSentByteByByteIsHandledOnce : Prop :=
  (∀ (b : Byte) (s : State), s.li.rx = .hunt → s.li.rxLimit = none → exec (.byteReceived b) s = .next
      (if b = 0xA5 then { s with li := { s.li with rx := .header [], rxLimit := some (addMs s.clock 21) } } else s))
    ∧ (∀ (kind tag hi lo : Byte) (p : List Byte) (s : State), p.length ≤ 250 → s.li.rx = .hunt → s.li.rxLimit = none →
      let body := BitVec.ofNat 8 p.length :: kind :: tag :: p
      [hi, lo] ≠ checkBytes (crc16 body) → s.pending = (0xA5 :: body ++ [hi, lo]).map Instr.byteReceived →
      Host.Core.run Sys2Proof.core (p.length + 6) s = .next { s with pending := [] })
    ∧ (∀ (n : Byte) (s : State), 250 < n.toNat → s.li.rx = .hunt → s.li.rxLimit = none →
      s.pending = [.byteReceived 0xA5, .byteReceived n] → Host.Core.run Sys2Proof.core 2 s = .next { s with pending := [] })
    ∧ ∀ (kind tag : Byte) (p : List Byte) (s : State), p.length ≤ 250 → s.li.rx = .hunt → s.li.rxLimit = none →
      s.pending = (frameBytes kind tag p).map Instr.byteReceived →
      Host.Core.run Sys2Proof.core (frameBytes kind tag p).length s
        = .next (handleFrame kind tag p { s with pending := [] })

/-! ### Laws of the device, kept by every step -/

/-- The Event Queue keeps its bound, ATTN its law, and the reply list its four places (R167, R174, R176). -/
def Obligations.EveryStepKeepsTheReportLaws : Prop :=
  ∀ s t : State, QueueLaw s ∧ ReplyLaw s → step s = .next t → QueueLaw t ∧ ReplyLaw t

/-- Vc stays in its range with its band status, SUSPENDED stays the state outside AUTO, and every estimate stays
within its limits (R16, R17, R81, R95, R97, R98). -/
def Obligations.EveryStepKeepsTheControlLaws : Prop :=
  ∀ s t : State, VoltageLaw s ∧ ModeLaw s ∧ EstimateLaw s → step s = .next t →
    VoltageLaw t ∧ ModeLaw t ∧ EstimateLaw t

/-- The Insertion List stays the energized set, each member once; the Step Table, the pending retries and the
zeroing keep their laws (R21, R22, R33, R35, R36, R39, R59, R136, R149). -/
def Obligations.EveryStepKeepsTheTableLaws : Prop :=
  (∀ s t : State, InsertionLaw s → step s = .next t → InsertionLaw t)
    ∧ ∀ s t : State, TableLaw s → step s = .next t → TableLaw t

/-- The waiting list stays within four records, in class order, with no step in two of the records, the ACTIVE one among
them, and BKTRIP stays asserted exactly while some step holds OPEN-FAIL (R42 to R48, R61). -/
def Obligations.EveryStepKeepsTheChannelLaws : Prop :=
  ∀ s t : State, WaitingLaw s ∧ BktripLaw s → step s = .next t → WaitingLaw t ∧ BktripLaw t

/-- The close lists and the trip-time list stay within 8 and 10 entries, each with its head's leave deadline
(R69, R71, R159). -/
def Obligations.EveryStepKeepsTheListLaw : Prop := ∀ s t : State, ListLaw s → step s = .next t → ListLaw t

/-- The harmonic close block stays what the filters make it, and combination 0 stays CLEAR (R112, R121). -/
def Obligations.EveryStepKeepsTheHarmonicLaws : Prop :=
  ∀ s t : State, HarmonicBlockLaw s ∧ EmptyCombinationLaw s → step s = .next t →
    HarmonicBlockLaw t ∧ EmptyCombinationLaw t

/-- The state after the first cold reset keeps every law of the device (R18, R180 and R181 among the start values). That
state rests on the model's choices of log entries 1 and 2. -/
def Obligations.ResetKeepsTheLawsOfTheDevice : Prop :=
  QueueLaw State.reset ∧ ReplyLaw State.reset ∧ VoltageLaw State.reset ∧ ModeLaw State.reset
    ∧ EstimateLaw State.reset ∧ InsertionLaw State.reset ∧ TableLaw State.reset ∧ WaitingLaw State.reset
    ∧ BktripLaw State.reset ∧ ListLaw State.reset ∧ HarmonicBlockLaw State.reset ∧ EmptyCombinationLaw State.reset

/-! ### The end of an operation -/

/-- CONTACT_FILTER_EXPIRY that brings the last targeted step to the target ends the operation with success: the slot
and the outputs are released, the channel rests, OP-DONE is appended (R55, R57), and the learning window, the sample
and the removal of the operation go on (R94, R114, R125); a sample in SETTLING and a learning window in SETTLING or
AFTER-WAIT are discarded with reason POSITION (R96, R127). A closed step is CLOSED and energized last in the Insertion
List, with the close accounted and freshness set (R25, R69, R70, R72, R106). An opened step is READY or COOLING by its
discharge deadline and counted (R27, R76); a step LOCKED meanwhile stays LOCKED. Nothing is shown waiting, and a CLOSE
names one step (R41). -/
def Obligations.ArrivalOfTheLastStepEndsTheOperation : Prop :=
  ∀ (k : StepNo) (c : Contact) (s : State) (a : ActiveOp), due s.clock ((s.stp k).contact c).deadline = true →
    s.sm.built = true → s.sc.active = some a → mem a.op.steps k = true → a.missing = bit k → s.sc.waiting = [] →
    (a.op.kind = .close → a.op.steps = bit k) →
    let filtered (d : Contact) := if d = c then some ((s.stp k).contact d).raw else ((s.stp k).contact d).filtered
    let target : Sensed := match a.op.kind with
      | .close => .closed
      | .open_ => .opened
    filtered .posA = some (decide (a.op.kind = .close)) → filtered .posB = some (decide (a.op.kind = .open_)) →
    (s.stp k).sensed ≠ some target → s.li.events.length ≤ 50 → ∃ t, exec (.contactFilterExpiry k c) s = .next t ∧
      let told (b : Requester) := a.op.requester = b ∨ b ∈ a.op.joined
      let counted (n m : Nat) := m = if n < 2 ^ 32 - 1 then n + 1 else n
      t.sc.active = none ∧ t.sc.waiting = [] ∧ t.sc.rest = some (addSec s.clock s.settings.yard.restInterval)
        ∧ (∀ j, mem a.op.steps j = true → t.sc.coils[j] = ⟨none, none⟩ ∧ (t.stp j).lastOp = some a.op.id)
        ∧ (∀ j, mem a.op.steps j = false → t.sc.coils[j] = s.sc.coils[j] ∧ t.stp j = s.stp j)
        ∧ ⟨s.clock, .opDone, .info, single a.op.steps, some a.op.id, some (a.op.steps.toNat : Int), none⟩ ∈ t.li.events
        ∧ (∀ w, s.rl.window = .started w → t.rl.window = if w.id = a.op.id then
            .settling w t.energized (addSec s.clock s.settings.control.settle) else .started w)
        ∧ (∀ x d, s.vc.state = .settling x d → t.vc.state = .watch
          ∧ ⟨s.clock, .learnDiscarded, .info, some x.step, some x.id, some 2, none⟩ ∈ t.li.events)
        ∧ (∀ w, ((∃ e d, s.rl.window = .settling w e d) ∨ ∃ e, s.rl.window = .afterWait w e) → t.rl.window = .none
          ∧ ⟨s.clock, .resDiscarded, .info, some w.step, some w.id, some 1, none⟩ ∈ t.li.events)
        ∧ (∀ x, s.vc.state = .awaiting x → told .vc → x.id = a.op.id → t.vc.state = if a.op.steps = bit x.step then
            .settling x (addSec s.clock s.settings.control.settle) else .watch)
        ∧ (told .hs → ∀ f : FilterNo, (t.filt f).removal =
            if (s.filt f).removal = .inHand a.op.id then .complete else (s.filt f).removal)
        ∧ (a.op.kind = .close → (t.stp k).sensed = some .closed
          ∧ (t.stp k).state = (if (s.stp k).state = some .closing then some .closed else (s.stp k).state)
          ∧ (t.stp k).closedSince = some s.clock ∧ counted (s.stp k).closeCount (t.stp k).closeCount
          ∧ (t.stp k).closeList =
              (if 8 ≤ (s.stp k).closeList.length then (s.stp k).closeList.tail else (s.stp k).closeList) ++ [s.clock]
          ∧ t.hs.freshness = some (addSec s.clock s.settings.control.settle)
          ∧ ((s.stp k).state = some .closing → InsertionLaw s → t.sm.insertion = s.sm.insertion ++ [k])
          ∧ ((s.stp k).closeList.length < (s.cfg k).closeLimit → (s.cfg k).closeLimit ≤ (t.stp k).closeList.length →
            ⟨s.clock, .restStart, .info, some k, none, some ((t.stp k).closeList.length : Int),
              some ((s.cfg k).closeLimit : Int)⟩ ∈ t.li.events))
        ∧ (a.op.kind = .open_ → t.hs.freshness = s.hs.freshness ∧ (t.stp k).sensed = some .opened
          ∧ ∀ j, mem a.op.steps j = true → counted (s.stp j).openCount (t.stp j).openCount
            ∧ (t.stp j).closeList = (s.stp j).closeList
            ∧ (t.stp j).discharge = (if j = k then some (addSec s.clock (s.cfg k).discharge) else (s.stp j).discharge)
            ∧ ((s.stp j).state = some .opening → mem t.energized j = false ∧ (t.stp j).state = some
              (if (t.stp j).discharge = none ∨ due s.clock (t.stp j).discharge = true then .ready else .cooling))
            ∧ ((s.stp j).state = some .locked → (t.stp j).state = some .locked))
        ∧ t.settings = s.settings ∧ t.yp = s.yp ∧ t.mu = s.mu ∧ t.store = s.store
end

