-- ==== Sys2Proof/Laws/State.lean ====
section
/-! SUPPORT. What each basic update leaves unchanged, field by field, and what it writes: true by unfolding, for the simplifier. -/

namespace Sys2Proof.Machine

/-- `appendEvent` writes `li` alone. -/
@[simp] theorem appendEvent_fields (e : EventRec) (s : State) :
    (appendEvent e s).pending = s.pending ∧ (appendEvent e s).clock = s.clock ∧ (appendEvent e s).mu = s.mu ∧
    (appendEvent e s).sm = s.sm ∧ (appendEvent e s).sc = s.sc ∧ (appendEvent e s).vc = s.vc ∧
    (appendEvent e s).hs = s.hs ∧ (appendEvent e s).rl = s.rl ∧ (appendEvent e s).zeroing = s.zeroing ∧
    (appendEvent e s).yp = s.yp ∧ (appendEvent e s).store = s.store ∧ (appendEvent e s).settings = s.settings ∧
    (appendEvent e s).draws = s.draws ∧ (appendEvent e s).fresh = s.fresh :=
  ⟨rfl, rfl, rfl, rfl, rfl, rfl, rfl, rfl, rfl, rfl, rfl, rfl, rfl, rfl⟩

/-- `note` writes `li` alone. -/
@[simp] theorem note_fields (kind : EventKind) (cls : EvClass) (step : Option StepNo) (id : Option Byte) (v w : Option Int) (s : State) :
    (note kind cls step id v w s).pending = s.pending ∧ (note kind cls step id v w s).clock = s.clock ∧
    (note kind cls step id v w s).mu = s.mu ∧ (note kind cls step id v w s).sm = s.sm ∧
    (note kind cls step id v w s).sc = s.sc ∧ (note kind cls step id v w s).vc = s.vc ∧
    (note kind cls step id v w s).hs = s.hs ∧ (note kind cls step id v w s).rl = s.rl ∧
    (note kind cls step id v w s).zeroing = s.zeroing ∧ (note kind cls step id v w s).yp = s.yp ∧
    (note kind cls step id v w s).store = s.store ∧ (note kind cls step id v w s).settings = s.settings ∧
    (note kind cls step id v w s).draws = s.draws ∧ (note kind cls step id v w s).fresh = s.fresh :=
  ⟨rfl, rfl, rfl, rfl, rfl, rfl, rfl, rfl, rfl, rfl, rfl, rfl, rfl, rfl⟩

/-- `reformAttn` writes `li` alone. -/
@[simp] theorem reformAttn_fields (s : State) :
    (reformAttn s).pending = s.pending ∧ (reformAttn s).clock = s.clock ∧ (reformAttn s).mu = s.mu ∧
    (reformAttn s).sm = s.sm ∧ (reformAttn s).sc = s.sc ∧ (reformAttn s).vc = s.vc ∧ (reformAttn s).hs = s.hs ∧
    (reformAttn s).rl = s.rl ∧ (reformAttn s).zeroing = s.zeroing ∧ (reformAttn s).yp = s.yp ∧
    (reformAttn s).store = s.store ∧ (reformAttn s).settings = s.settings ∧ (reformAttn s).draws = s.draws ∧
    (reformAttn s).fresh = s.fresh :=
  ⟨rfl, rfl, rfl, rfl, rfl, rfl, rfl, rfl, rfl, rfl, rfl, rfl, rfl, rfl⟩

/-- `sendReply` writes `li` alone. -/
@[simp] theorem sendReply_fields (r : Reply) (s : State) :
    (sendReply r s).pending = s.pending ∧ (sendReply r s).clock = s.clock ∧ (sendReply r s).mu = s.mu ∧
    (sendReply r s).sm = s.sm ∧ (sendReply r s).sc = s.sc ∧ (sendReply r s).vc = s.vc ∧ (sendReply r s).hs = s.hs ∧
    (sendReply r s).rl = s.rl ∧ (sendReply r s).zeroing = s.zeroing ∧ (sendReply r s).yp = s.yp ∧
    (sendReply r s).store = s.store ∧ (sendReply r s).settings = s.settings ∧ (sendReply r s).draws = s.draws ∧
    (sendReply r s).fresh = s.fresh :=
  ⟨rfl, rfl, rfl, rfl, rfl, rfl, rfl, rfl, rfl, rfl, rfl, rfl, rfl, rfl⟩

/-- `setClampSeen` writes `li` alone. -/
@[simp] theorem setClampSeen_fields (c : Bool) (s : State) :
    (setClampSeen c s).pending = s.pending ∧ (setClampSeen c s).clock = s.clock ∧ (setClampSeen c s).mu = s.mu ∧
    (setClampSeen c s).sm = s.sm ∧ (setClampSeen c s).sc = s.sc ∧ (setClampSeen c s).vc = s.vc ∧
    (setClampSeen c s).hs = s.hs ∧ (setClampSeen c s).rl = s.rl ∧ (setClampSeen c s).zeroing = s.zeroing ∧
    (setClampSeen c s).yp = s.yp ∧ (setClampSeen c s).store = s.store ∧ (setClampSeen c s).settings = s.settings ∧
    (setClampSeen c s).draws = s.draws ∧ (setClampSeen c s).fresh = s.fresh :=
  ⟨rfl, rfl, rfl, rfl, rfl, rfl, rfl, rfl, rfl, rfl, rfl, rfl, rfl, rfl⟩

/-- `setUnbSeen` writes `li` alone. -/
@[simp] theorem setUnbSeen_fields (s : State) :
    (setUnbSeen s).pending = s.pending ∧ (setUnbSeen s).clock = s.clock ∧ (setUnbSeen s).mu = s.mu ∧
    (setUnbSeen s).sm = s.sm ∧ (setUnbSeen s).sc = s.sc ∧ (setUnbSeen s).vc = s.vc ∧ (setUnbSeen s).hs = s.hs ∧
    (setUnbSeen s).rl = s.rl ∧ (setUnbSeen s).zeroing = s.zeroing ∧ (setUnbSeen s).yp = s.yp ∧
    (setUnbSeen s).store = s.store ∧ (setUnbSeen s).settings = s.settings ∧ (setUnbSeen s).draws = s.draws ∧
    (setUnbSeen s).fresh = s.fresh :=
  ⟨rfl, rfl, rfl, rfl, rfl, rfl, rfl, rfl, rfl, rfl, rfl, rfl, rfl, rfl⟩

/-- `setHarmonicSeen` writes `li` alone. -/
@[simp] theorem setHarmonicSeen_fields (s : State) :
    (setHarmonicSeen s).pending = s.pending ∧ (setHarmonicSeen s).clock = s.clock ∧ (setHarmonicSeen s).mu = s.mu ∧
    (setHarmonicSeen s).sm = s.sm ∧ (setHarmonicSeen s).sc = s.sc ∧ (setHarmonicSeen s).vc = s.vc ∧
    (setHarmonicSeen s).hs = s.hs ∧ (setHarmonicSeen s).rl = s.rl ∧ (setHarmonicSeen s).zeroing = s.zeroing ∧
    (setHarmonicSeen s).yp = s.yp ∧ (setHarmonicSeen s).store = s.store ∧
    (setHarmonicSeen s).settings = s.settings ∧ (setHarmonicSeen s).draws = s.draws ∧
    (setHarmonicSeen s).fresh = s.fresh :=
  ⟨rfl, rfl, rfl, rfl, rfl, rfl, rfl, rfl, rfl, rfl, rfl, rfl, rfl, rfl⟩

/-- `setOvSeen` writes `li` alone. -/
@[simp] theorem setOvSeen_fields (s : State) :
    (setOvSeen s).pending = s.pending ∧ (setOvSeen s).clock = s.clock ∧ (setOvSeen s).mu = s.mu ∧
    (setOvSeen s).sm = s.sm ∧ (setOvSeen s).sc = s.sc ∧ (setOvSeen s).vc = s.vc ∧ (setOvSeen s).hs = s.hs ∧
    (setOvSeen s).rl = s.rl ∧ (setOvSeen s).zeroing = s.zeroing ∧ (setOvSeen s).yp = s.yp ∧
    (setOvSeen s).store = s.store ∧ (setOvSeen s).settings = s.settings ∧ (setOvSeen s).draws = s.draws ∧
    (setOvSeen s).fresh = s.fresh :=
  ⟨rfl, rfl, rfl, rfl, rfl, rfl, rfl, rfl, rfl, rfl, rfl, rfl, rfl, rfl⟩

/-- `setBreakerSeen` writes `li` alone. -/
@[simp] theorem setBreakerSeen_fields (s : State) :
    (setBreakerSeen s).pending = s.pending ∧ (setBreakerSeen s).clock = s.clock ∧ (setBreakerSeen s).mu = s.mu ∧
    (setBreakerSeen s).sm = s.sm ∧ (setBreakerSeen s).sc = s.sc ∧ (setBreakerSeen s).vc = s.vc ∧
    (setBreakerSeen s).hs = s.hs ∧ (setBreakerSeen s).rl = s.rl ∧ (setBreakerSeen s).zeroing = s.zeroing ∧
    (setBreakerSeen s).yp = s.yp ∧ (setBreakerSeen s).store = s.store ∧ (setBreakerSeen s).settings = s.settings ∧
    (setBreakerSeen s).draws = s.draws ∧ (setBreakerSeen s).fresh = s.fresh :=
  ⟨rfl, rfl, rfl, rfl, rfl, rfl, rfl, rfl, rfl, rfl, rfl, rfl, rfl, rfl⟩

/-- `setStoreInvalid` writes `li` alone. -/
@[simp] theorem setStoreInvalid_fields (s : State) :
    (setStoreInvalid s).pending = s.pending ∧ (setStoreInvalid s).clock = s.clock ∧ (setStoreInvalid s).mu = s.mu ∧
    (setStoreInvalid s).sm = s.sm ∧ (setStoreInvalid s).sc = s.sc ∧ (setStoreInvalid s).vc = s.vc ∧
    (setStoreInvalid s).hs = s.hs ∧ (setStoreInvalid s).rl = s.rl ∧ (setStoreInvalid s).zeroing = s.zeroing ∧
    (setStoreInvalid s).yp = s.yp ∧ (setStoreInvalid s).store = s.store ∧
    (setStoreInvalid s).settings = s.settings ∧ (setStoreInvalid s).draws = s.draws ∧
    (setStoreInvalid s).fresh = s.fresh :=
  ⟨rfl, rfl, rfl, rfl, rfl, rfl, rfl, rfl, rfl, rfl, rfl, rfl, rfl, rfl⟩

/-- `setStep` writes `sm` alone. -/
@[simp] theorem setStep_fields (k : StepNo) (r : StepRec) (s : State) :
    (setStep k r s).pending = s.pending ∧ (setStep k r s).clock = s.clock ∧ (setStep k r s).mu = s.mu ∧
    (setStep k r s).sc = s.sc ∧ (setStep k r s).vc = s.vc ∧ (setStep k r s).hs = s.hs ∧ (setStep k r s).rl = s.rl ∧
    (setStep k r s).zeroing = s.zeroing ∧ (setStep k r s).yp = s.yp ∧ (setStep k r s).li = s.li ∧
    (setStep k r s).store = s.store ∧ (setStep k r s).settings = s.settings ∧ (setStep k r s).draws = s.draws ∧
    (setStep k r s).fresh = s.fresh :=
  ⟨rfl, rfl, rfl, rfl, rfl, rfl, rfl, rfl, rfl, rfl, rfl, rfl, rfl, rfl⟩

/-- `putStep` writes `sm` alone. -/
@[simp] theorem putStep_fields (k : StepNo) (r : StepRec) (s : State) :
    (putStep k r s).pending = s.pending ∧ (putStep k r s).clock = s.clock ∧ (putStep k r s).mu = s.mu ∧
    (putStep k r s).sc = s.sc ∧ (putStep k r s).vc = s.vc ∧ (putStep k r s).hs = s.hs ∧ (putStep k r s).rl = s.rl ∧
    (putStep k r s).zeroing = s.zeroing ∧ (putStep k r s).yp = s.yp ∧ (putStep k r s).li = s.li ∧
    (putStep k r s).store = s.store ∧ (putStep k r s).settings = s.settings ∧ (putStep k r s).draws = s.draws ∧
    (putStep k r s).fresh = s.fresh :=
  ⟨rfl, rfl, rfl, rfl, rfl, rfl, rfl, rfl, rfl, rfl, rfl, rfl, rfl, rfl⟩

/-- `setCfg` writes `settings` alone. -/
@[simp] theorem setCfg_fields (k : StepNo) (c : StepSettings) (s : State) :
    (setCfg k c s).pending = s.pending ∧ (setCfg k c s).clock = s.clock ∧ (setCfg k c s).mu = s.mu ∧
    (setCfg k c s).sm = s.sm ∧ (setCfg k c s).sc = s.sc ∧ (setCfg k c s).vc = s.vc ∧ (setCfg k c s).hs = s.hs ∧
    (setCfg k c s).rl = s.rl ∧ (setCfg k c s).zeroing = s.zeroing ∧ (setCfg k c s).yp = s.yp ∧
    (setCfg k c s).li = s.li ∧ (setCfg k c s).store = s.store ∧ (setCfg k c s).draws = s.draws ∧
    (setCfg k c s).fresh = s.fresh :=
  ⟨rfl, rfl, rfl, rfl, rfl, rfl, rfl, rfl, rfl, rfl, rfl, rfl, rfl, rfl⟩

/-- `setWaiting` writes `sc` alone. -/
@[simp] theorem setWaiting_fields (l : List OpRec) (s : State) :
    (setWaiting l s).pending = s.pending ∧ (setWaiting l s).clock = s.clock ∧ (setWaiting l s).mu = s.mu ∧
    (setWaiting l s).sm = s.sm ∧ (setWaiting l s).vc = s.vc ∧ (setWaiting l s).hs = s.hs ∧
    (setWaiting l s).rl = s.rl ∧ (setWaiting l s).zeroing = s.zeroing ∧ (setWaiting l s).yp = s.yp ∧
    (setWaiting l s).li = s.li ∧ (setWaiting l s).store = s.store ∧ (setWaiting l s).settings = s.settings ∧
    (setWaiting l s).draws = s.draws ∧ (setWaiting l s).fresh = s.fresh :=
  ⟨rfl, rfl, rfl, rfl, rfl, rfl, rfl, rfl, rfl, rfl, rfl, rfl, rfl, rfl⟩

/-- `bumpId` writes `sc` alone. -/
@[simp] theorem bumpId_fields (s : State) :
    (bumpId s).pending = s.pending ∧ (bumpId s).clock = s.clock ∧ (bumpId s).mu = s.mu ∧ (bumpId s).sm = s.sm ∧
    (bumpId s).vc = s.vc ∧ (bumpId s).hs = s.hs ∧ (bumpId s).rl = s.rl ∧ (bumpId s).zeroing = s.zeroing ∧
    (bumpId s).yp = s.yp ∧ (bumpId s).li = s.li ∧ (bumpId s).store = s.store ∧ (bumpId s).settings = s.settings ∧
    (bumpId s).draws = s.draws ∧ (bumpId s).fresh = s.fresh :=
  ⟨rfl, rfl, rfl, rfl, rfl, rfl, rfl, rfl, rfl, rfl, rfl, rfl, rfl, rfl⟩

/-- `mapCoils` writes `sc` alone. -/
@[simp] theorem mapCoils_fields (c : Comb) (f : StepNo → Coils → Coils) (s : State) :
    (mapCoils c f s).pending = s.pending ∧ (mapCoils c f s).clock = s.clock ∧ (mapCoils c f s).mu = s.mu ∧
    (mapCoils c f s).sm = s.sm ∧ (mapCoils c f s).vc = s.vc ∧ (mapCoils c f s).hs = s.hs ∧
    (mapCoils c f s).rl = s.rl ∧ (mapCoils c f s).zeroing = s.zeroing ∧ (mapCoils c f s).yp = s.yp ∧
    (mapCoils c f s).li = s.li ∧ (mapCoils c f s).store = s.store ∧ (mapCoils c f s).settings = s.settings ∧
    (mapCoils c f s).draws = s.draws ∧ (mapCoils c f s).fresh = s.fresh :=
  ⟨rfl, rfl, rfl, rfl, rfl, rfl, rfl, rfl, rfl, rfl, rfl, rfl, rfl, rfl⟩

/-- `occupySlot` writes `sc` alone. -/
@[simp] theorem occupySlot_fields (o : OpRec) (s : State) :
    (occupySlot o s).pending = s.pending ∧ (occupySlot o s).clock = s.clock ∧ (occupySlot o s).mu = s.mu ∧
    (occupySlot o s).sm = s.sm ∧ (occupySlot o s).vc = s.vc ∧ (occupySlot o s).hs = s.hs ∧
    (occupySlot o s).rl = s.rl ∧ (occupySlot o s).zeroing = s.zeroing ∧ (occupySlot o s).yp = s.yp ∧
    (occupySlot o s).li = s.li ∧ (occupySlot o s).store = s.store ∧ (occupySlot o s).settings = s.settings ∧
    (occupySlot o s).draws = s.draws ∧ (occupySlot o s).fresh = s.fresh :=
  ⟨rfl, rfl, rfl, rfl, rfl, rfl, rfl, rfl, rfl, rfl, rfl, rfl, rfl, rfl⟩

/-- `emptySlot` writes `sc` alone. -/
@[simp] theorem emptySlot_fields (c : Comb) (s : State) :
    (emptySlot c s).pending = s.pending ∧ (emptySlot c s).clock = s.clock ∧ (emptySlot c s).mu = s.mu ∧
    (emptySlot c s).sm = s.sm ∧ (emptySlot c s).vc = s.vc ∧ (emptySlot c s).hs = s.hs ∧ (emptySlot c s).rl = s.rl ∧
    (emptySlot c s).zeroing = s.zeroing ∧ (emptySlot c s).yp = s.yp ∧ (emptySlot c s).li = s.li ∧
    (emptySlot c s).store = s.store ∧ (emptySlot c s).settings = s.settings ∧ (emptySlot c s).draws = s.draws ∧
    (emptySlot c s).fresh = s.fresh :=
  ⟨rfl, rfl, rfl, rfl, rfl, rfl, rfl, rfl, rfl, rfl, rfl, rfl, rfl, rfl⟩

/-- `setVc` writes `vc` alone. -/
@[simp] theorem setVc_fields (v : VcState) (s : State) :
    (setVc v s).pending = s.pending ∧ (setVc v s).clock = s.clock ∧ (setVc v s).mu = s.mu ∧ (setVc v s).sm = s.sm ∧
    (setVc v s).sc = s.sc ∧ (setVc v s).hs = s.hs ∧ (setVc v s).rl = s.rl ∧ (setVc v s).zeroing = s.zeroing ∧
    (setVc v s).yp = s.yp ∧ (setVc v s).li = s.li ∧ (setVc v s).store = s.store ∧
    (setVc v s).settings = s.settings ∧ (setVc v s).draws = s.draws ∧ (setVc v s).fresh = s.fresh :=
  ⟨rfl, rfl, rfl, rfl, rfl, rfl, rfl, rfl, rfl, rfl, rfl, rfl, rfl, rfl⟩

/-- `holdUrgent` writes `vc` alone. -/
@[simp] theorem holdUrgent_fields (s : State) :
    (holdUrgent s).pending = s.pending ∧ (holdUrgent s).clock = s.clock ∧
    (holdUrgent s).mu = s.mu ∧ (holdUrgent s).sm = s.sm ∧ (holdUrgent s).sc = s.sc ∧
    (holdUrgent s).hs = s.hs ∧ (holdUrgent s).rl = s.rl ∧
    (holdUrgent s).zeroing = s.zeroing ∧ (holdUrgent s).yp = s.yp ∧
    (holdUrgent s).li = s.li ∧ (holdUrgent s).store = s.store ∧
    (holdUrgent s).settings = s.settings ∧ (holdUrgent s).draws = s.draws ∧
    (holdUrgent s).fresh = s.fresh :=
  ⟨rfl, rfl, rfl, rfl, rfl, rfl, rfl, rfl, rfl, rfl, rfl, rfl, rfl, rfl⟩

/-- `refreshSupervision` writes `vc` alone. -/
@[simp] theorem refreshSupervision_fields (s : State) :
    (refreshSupervision s).pending = s.pending ∧ (refreshSupervision s).clock = s.clock ∧
    (refreshSupervision s).mu = s.mu ∧ (refreshSupervision s).sm = s.sm ∧ (refreshSupervision s).sc = s.sc ∧
    (refreshSupervision s).hs = s.hs ∧ (refreshSupervision s).rl = s.rl ∧
    (refreshSupervision s).zeroing = s.zeroing ∧ (refreshSupervision s).yp = s.yp ∧
    (refreshSupervision s).li = s.li ∧ (refreshSupervision s).store = s.store ∧
    (refreshSupervision s).settings = s.settings ∧ (refreshSupervision s).draws = s.draws ∧
    (refreshSupervision s).fresh = s.fresh :=
  ⟨rfl, rfl, rfl, rfl, rfl, rfl, rfl, rfl, rfl, rfl, rfl, rfl, rfl, rfl⟩

/-- `holdVoltage` writes `vc` and `li` alone. -/
@[simp] theorem holdVoltage_fields (f : CycleFrame) (s : State) :
    (holdVoltage f s).pending = s.pending ∧ (holdVoltage f s).clock = s.clock ∧ (holdVoltage f s).mu = s.mu ∧
    (holdVoltage f s).sm = s.sm ∧ (holdVoltage f s).sc = s.sc ∧ (holdVoltage f s).hs = s.hs ∧
    (holdVoltage f s).rl = s.rl ∧ (holdVoltage f s).zeroing = s.zeroing ∧ (holdVoltage f s).yp = s.yp ∧
    (holdVoltage f s).store = s.store ∧ (holdVoltage f s).settings = s.settings ∧
    (holdVoltage f s).draws = s.draws ∧ (holdVoltage f s).fresh = s.fresh :=
  ⟨rfl, rfl, rfl, rfl, rfl, rfl, rfl, rfl, rfl, rfl, rfl, rfl, rfl⟩

/-- `putFilt` writes `hs` alone. -/
@[simp] theorem putFilt_fields (f : FilterNo) (r : FilterRec) (s : State) :
    (putFilt f r s).pending = s.pending ∧ (putFilt f r s).clock = s.clock ∧ (putFilt f r s).mu = s.mu ∧
    (putFilt f r s).sm = s.sm ∧ (putFilt f r s).sc = s.sc ∧ (putFilt f r s).vc = s.vc ∧ (putFilt f r s).rl = s.rl ∧
    (putFilt f r s).zeroing = s.zeroing ∧ (putFilt f r s).yp = s.yp ∧ (putFilt f r s).li = s.li ∧
    (putFilt f r s).store = s.store ∧ (putFilt f r s).settings = s.settings ∧ (putFilt f r s).draws = s.draws ∧
    (putFilt f r s).fresh = s.fresh :=
  ⟨rfl, rfl, rfl, rfl, rfl, rfl, rfl, rfl, rfl, rfl, rfl, rfl, rfl, rfl⟩

/-- `putEntry` writes `rl` alone. -/
@[simp] theorem putEntry_fields (c : Comb) (e : Entry) (s : State) :
    (putEntry c e s).pending = s.pending ∧ (putEntry c e s).clock = s.clock ∧ (putEntry c e s).mu = s.mu ∧
    (putEntry c e s).sm = s.sm ∧ (putEntry c e s).sc = s.sc ∧ (putEntry c e s).vc = s.vc ∧
    (putEntry c e s).hs = s.hs ∧ (putEntry c e s).zeroing = s.zeroing ∧ (putEntry c e s).yp = s.yp ∧
    (putEntry c e s).li = s.li ∧ (putEntry c e s).store = s.store ∧ (putEntry c e s).settings = s.settings ∧
    (putEntry c e s).draws = s.draws ∧ (putEntry c e s).fresh = s.fresh :=
  ⟨rfl, rfl, rfl, rfl, rfl, rfl, rfl, rfl, rfl, rfl, rfl, rfl, rfl, rfl⟩

/-- `setYp` writes `yp` alone. -/
@[simp] theorem setYp_fields (y : YardProt) (s : State) :
    (setYp y s).pending = s.pending ∧ (setYp y s).clock = s.clock ∧ (setYp y s).mu = s.mu ∧ (setYp y s).sm = s.sm ∧
    (setYp y s).sc = s.sc ∧ (setYp y s).vc = s.vc ∧ (setYp y s).hs = s.hs ∧ (setYp y s).rl = s.rl ∧
    (setYp y s).zeroing = s.zeroing ∧ (setYp y s).li = s.li ∧ (setYp y s).store = s.store ∧
    (setYp y s).settings = s.settings ∧ (setYp y s).draws = s.draws ∧ (setYp y s).fresh = s.fresh :=
  ⟨rfl, rfl, rfl, rfl, rfl, rfl, rfl, rfl, rfl, rfl, rfl, rfl, rfl, rfl⟩

/-- `setRx` writes `li` alone. -/
@[simp] theorem setRx_fields (r : Receiver) (s : State) :
    (setRx r s).pending = s.pending ∧ (setRx r s).clock = s.clock ∧ (setRx r s).mu = s.mu ∧ (setRx r s).sm = s.sm ∧
    (setRx r s).sc = s.sc ∧ (setRx r s).vc = s.vc ∧ (setRx r s).hs = s.hs ∧ (setRx r s).rl = s.rl ∧
    (setRx r s).zeroing = s.zeroing ∧ (setRx r s).yp = s.yp ∧ (setRx r s).store = s.store ∧
    (setRx r s).settings = s.settings ∧ (setRx r s).draws = s.draws ∧ (setRx r s).fresh = s.fresh :=
  ⟨rfl, rfl, rfl, rfl, rfl, rfl, rfl, rfl, rfl, rfl, rfl, rfl, rfl, rfl⟩

/-- `answer` writes `li` alone. -/
@[simp] theorem answer_fields (kind tag : Byte) (r : Result) (b : ReplyBody) (s : State) :
    (answer kind tag r b s).pending = s.pending ∧ (answer kind tag r b s).clock = s.clock ∧
    (answer kind tag r b s).mu = s.mu ∧ (answer kind tag r b s).sm = s.sm ∧ (answer kind tag r b s).sc = s.sc ∧
    (answer kind tag r b s).vc = s.vc ∧ (answer kind tag r b s).hs = s.hs ∧ (answer kind tag r b s).rl = s.rl ∧
    (answer kind tag r b s).zeroing = s.zeroing ∧ (answer kind tag r b s).yp = s.yp ∧
    (answer kind tag r b s).store = s.store ∧ (answer kind tag r b s).settings = s.settings ∧
    (answer kind tag r b s).draws = s.draws ∧ (answer kind tag r b s).fresh = s.fresh :=
  ⟨rfl, rfl, rfl, rfl, rfl, rfl, rfl, rfl, rfl, rfl, rfl, rfl, rfl, rfl⟩

/-- `tick` writes `clock` alone. -/
@[simp] theorem tick_fields (s : State) :
    (tick s).pending = s.pending ∧ (tick s).mu = s.mu ∧ (tick s).sm = s.sm ∧ (tick s).sc = s.sc ∧
    (tick s).vc = s.vc ∧ (tick s).hs = s.hs ∧ (tick s).rl = s.rl ∧ (tick s).zeroing = s.zeroing ∧
    (tick s).yp = s.yp ∧ (tick s).li = s.li ∧ (tick s).store = s.store ∧ (tick s).settings = s.settings ∧
    (tick s).draws = s.draws ∧ (tick s).fresh = s.fresh :=
  ⟨rfl, rfl, rfl, rfl, rfl, rfl, rfl, rfl, rfl, rfl, rfl, rfl, rfl, rfl⟩

/-! ### What the updates write -/

@[simp] theorem setWaiting_waiting (l : List OpRec) (s : State) : (setWaiting l s).sc.waiting = l := rfl
@[simp] theorem setWaiting_active (l : List OpRec) (s : State) : (setWaiting l s).sc.active = s.sc.active := rfl
@[simp] theorem setWaiting_rest (l : List OpRec) (s : State) : (setWaiting l s).sc.rest = s.sc.rest := rfl
@[simp] theorem setWaiting_nextId (l : List OpRec) (s : State) : (setWaiting l s).sc.nextId = s.sc.nextId := rfl
@[simp] theorem setWaiting_retries (l : List OpRec) (s : State) : (setWaiting l s).sc.retries = s.sc.retries := rfl
@[simp] theorem bumpId_waiting (s : State) : (bumpId s).sc.waiting = s.sc.waiting := rfl
@[simp] theorem bumpId_active (s : State) : (bumpId s).sc.active = s.sc.active := rfl
@[simp] theorem mapCoils_waiting (c : Comb) (f : StepNo → Coils → Coils) (s : State) :
    (mapCoils c f s).sc.waiting = s.sc.waiting := rfl
@[simp] theorem mapCoils_active (c : Comb) (f : StepNo → Coils → Coils) (s : State) :
    (mapCoils c f s).sc.active = s.sc.active := rfl
@[simp] theorem emptySlot_active (c : Comb) (s : State) : (emptySlot c s).sc.active = none := rfl
@[simp] theorem emptySlot_waiting (c : Comb) (s : State) : (emptySlot c s).sc.waiting = s.sc.waiting := rfl
@[simp] theorem setVc_state (v : VcState) (s : State) : (setVc v s).vc.state = v := rfl
@[simp] theorem setVc_mode (v : VcState) (s : State) : (setVc v s).vc.mode = s.vc.mode := rfl
@[simp] theorem setVc_vc (v : VcState) (s : State) : (setVc v s).vc.vc = s.vc.vc := rfl
@[simp] theorem holdUrgent_state (s : State) : (holdUrgent s).vc.state = s.vc.state := rfl
@[simp] theorem holdUrgent_mode (s : State) : (holdUrgent s).vc.mode = s.vc.mode := rfl
@[simp] theorem holdUrgent_urgentHeld (s : State) : (holdUrgent s).vc.urgentHeld = s.settings.control.urgentDelay := rfl
@[simp] theorem setYp_yp (y : YardProt) (s : State) : (setYp y s).yp = y := rfl

@[simp] theorem putFilt_same (f : FilterNo) (r : FilterRec) (s : State) : (putFilt f r s).filt f = r := by
  simp [putFilt, State.filt]

theorem putFilt_filt (f g : FilterNo) (r : FilterRec) (s : State) :
    (putFilt f r s).filt g = if g = f then r else s.filt g := by
  by_cases h : g = f
  · subst h; simp
  · simp [putFilt, State.filt, Vector.getElem_set, h, Fin.val_inj]
    exact fun hc => absurd hc.symm h

@[simp] theorem putEntry_same (c : Comb) (e : Entry) (s : State) : (putEntry c e s).entry c = e := by
  simp [putEntry, State.entry]

theorem putEntry_entry (c d : Comb) (e : Entry) (s : State) :
    (putEntry c e s).entry d = if d = c then e else s.entry d := by
  by_cases h : d = c
  · subst h; simp
  · have : ¬ c.toFin.val = d.toFin.val := fun hc => h (BitVec.toFin_inj.mp (Fin.ext hc.symm))
    simp only [putEntry, State.entry, h, if_false]
    exact Vector.getElem_set_ne _ _ this

@[simp] theorem setCfg_same (k : StepNo) (c : StepSettings) (s : State) : (setCfg k c s).cfg k = c := by
  simp [setCfg, State.cfg]

theorem setCfg_cfg (k j : StepNo) (c : StepSettings) (s : State) :
    (setCfg k c s).cfg j = if j = k then c else s.cfg j := by
  by_cases h : j = k
  · subst h; simp
  · simp [setCfg, State.cfg, Vector.getElem_set, h, Fin.val_inj]
    exact fun hc => absurd hc.symm h

theorem setStep_stp (k j : StepNo) (r : StepRec) (s : State) :
    (setStep k r s).stp j = if j = k then r else s.stp j := by
  by_cases h : j = k
  · subst h; simp [setStep, State.stp]
  · simp [setStep, State.stp, Vector.getElem_set, h, Fin.val_inj]
    exact fun hc => absurd hc.symm h

/-- A step's record after `putStep`: settled for the step written, as before for every other. -/
theorem putStep_stp (k j : StepNo) (r : StepRec) (s : State) :
    (putStep k r s).stp j = if j = k then r.settle else s.stp j := setStep_stp k j r.settle s

@[simp] theorem putStep_same (k : StepNo) (r : StepRec) (s : State) : (putStep k r s).stp k = r.settle := by
  simp [putStep_stp]

/-- What a step's record is read from. -/
theorem stp_of_sm {s t : State} (h : t.sm = s.sm) (k : StepNo) : t.stp k = s.stp k := by simp [State.stp, h]

/-- What a step's settings are read from. -/
theorem cfg_of_settings {s t : State} (h : t.settings = s.settings) (k : StepNo) : t.cfg k = s.cfg k := by
  simp [State.cfg, h]

end Sys2Proof.Machine
end

