-- ==== Sys2Proof/Laws/Frames.lean ====
section
/-! SUPPORT. What the shared operations of the steps and the channel leave alone: one frame lemma per operation, composed by transitivity. -/

namespace Sys2Proof.Machine

/-- What no operation of the Step Manager or the Switching Channel writes. -/
structure ChannelFrame (s t : State) : Prop where
  pending : t.pending = s.pending
  clock : t.clock = s.clock
  mu : t.mu = s.mu
  yp : t.yp = s.yp
  store : t.store = s.store
  settings : t.settings = s.settings
  draws : t.draws = s.draws

theorem ChannelFrame.refl (s : State) : ChannelFrame s s := ⟨rfl, rfl, rfl, rfl, rfl, rfl, rfl⟩

theorem ChannelFrame.trans {s t u : State} (h : ChannelFrame s t) (k : ChannelFrame t u) : ChannelFrame s u :=
  ⟨k.pending.trans h.pending, k.clock.trans h.clock, k.mu.trans h.mu, k.yp.trans h.yp, k.store.trans h.store,
    k.settings.trans h.settings, k.draws.trans h.draws⟩

/-- A fold of framed operations is framed. -/
theorem ChannelFrame.foldl {α : Type} (f : State → α → State) (h : ∀ s a, ChannelFrame s (f s a)) :
    ∀ (l : List α) (s : State), ChannelFrame s (l.foldl f s)
  | [], s => .refl s
  | a :: l, s => (h s a).trans (foldl f h l (f s a))

/-! ### Basic updates -/

theorem note_frame (kind : EventKind) (cls : EvClass) (step : Option StepNo) (id : Option Byte) (v w : Option Int)
    (s : State) : ChannelFrame s (note kind cls step id v w s) := ⟨rfl, rfl, rfl, rfl, rfl, rfl, rfl⟩

theorem putStep_frame (k : StepNo) (r : StepRec) (s : State) : ChannelFrame s (putStep k r s) :=
  ⟨rfl, rfl, rfl, rfl, rfl, rfl, rfl⟩

theorem setWaiting_frame (l : List OpRec) (s : State) : ChannelFrame s (setWaiting l s) :=
  ⟨rfl, rfl, rfl, rfl, rfl, rfl, rfl⟩

theorem setBreakerSeen_frame (s : State) : ChannelFrame s (setBreakerSeen s) := ⟨rfl, rfl, rfl, rfl, rfl, rfl, rfl⟩

/-! ### Steps -/

theorem discardSample_frame (r : LearnReason) (s : State) : ChannelFrame s (discardSample r s) := by
  unfold discardSample; split <;> first | exact .refl _ | exact ⟨rfl, rfl, rfl, rfl, rfl, rfl, rfl⟩

theorem dropWindow_frame (w : WindowStart) (r : ResReason) (s : State) : ChannelFrame s (dropWindow w r s) :=
  ⟨rfl, rfl, rfl, rfl, rfl, rfl, rfl⟩

theorem discardWindow_frame (r : ResReason) (s : State) : ChannelFrame s (discardWindow r s) := by
  unfold discardWindow; split <;> first | exact .refl _ | exact dropWindow_frame _ _ _

theorem abortZero_frame (r : ZeroReason) (s : State) : ChannelFrame s (abortZero r s) := by
  unfold abortZero; split <;> first | exact .refl _ | exact ⟨rfl, rfl, rfl, rfl, rfl, rfl, rfl⟩

theorem cancelRetry_frame (r : CancelReason) (k : StepNo) (s : State) : ChannelFrame s (cancelRetry r k s) := by
  unfold cancelRetry; split <;> first | exact .refl _ | exact ⟨rfl, rfl, rfl, rfl, rfl, rfl, rfl⟩

theorem reformBktrip_frame (k : StepNo) (s : State) : ChannelFrame s (reformBktrip k s) := by
  unfold reformBktrip; split
  · exact .refl _
  · split <;> exact ⟨rfl, rfl, rfl, rfl, rfl, rfl, rfl⟩

theorem reportRetry_frame (k : StepNo) (s : State) : ChannelFrame s (reportRetry k s) := by
  unfold reportRetry; split <;> first | exact .refl _ | exact cancelRetry_frame _ _ _

theorem reportZero_frame (k : StepNo) (s : State) : ChannelFrame s (reportZero k s) := by
  unfold reportZero; split
  · exact .refl _
  · split <;> first | exact .refl _ | exact abortZero_frame _ _

theorem reportStep_frame (k : StepNo) (s : State) : ChannelFrame s (reportStep k s) :=
  ((reportRetry_frame k s).trans (reportZero_frame k _)).trans (reformBktrip_frame k _)

theorem addLock_frame (r : LockReason) (k : StepNo) (s : State) : ChannelFrame s (addLock r k s) := by
  unfold addLock; split
  · exact .refl _
  · dsimp only; split <;> exact ⟨rfl, rfl, rfl, rfl, rfl, rfl, rfl⟩

theorem lockStep_frame (r : LockReason) (k : StepNo) (s : State) : ChannelFrame s (lockStep r k s) :=
  (addLock_frame r k s).trans (reportStep_frame k _)

theorem noteRest_frame (k : StepNo) (b : Bool) (s : State) : ChannelFrame s (noteRest k b s) := by
  unfold noteRest; split <;> first | exact .refl _ | exact note_frame ..

theorem accountClose_frame (k : StepNo) (r : StepRec) (s : State) : ChannelFrame s (accountClose k r s) :=
  (putStep_frame k _ s).trans (noteRest_frame k _ _)

/-! ### The channel -/

theorem tellVc_frame (id : Byte) (c : Comb) (out : OpOutcome) (s : State) : ChannelFrame s (tellVc id c out s) := by
  unfold tellVc; split
  · split
    · exact .refl _
    · split
      · exact ⟨rfl, rfl, rfl, rfl, rfl, rfl, rfl⟩
      · split <;> exact ⟨rfl, rfl, rfl, rfl, rfl, rfl, rfl⟩
  all_goals exact .refl _

theorem tellOne_frame (o : OpRec) (out : OpOutcome) (s : State) (r : Requester) :
    ChannelFrame s (tellOne o out s r) := by
  cases r <;> first | exact .refl _ | exact tellVc_frame _ _ _ _ | exact ⟨rfl, rfl, rfl, rfl, rfl, rfl, rfl⟩

theorem tell_frame (o : OpRec) (out : OpOutcome) (s : State) : ChannelFrame s (tell o out s) :=
  .foldl _ (tellOne_frame o out) _ s

theorem cancelRec_frame (r : CancelReason) (o : OpRec) (s : State) : ChannelFrame s (cancelRec r o s) :=
  ((setWaiting_frame _ s).trans (tell_frame o _ _)).trans (note_frame ..)

theorem dropRec_frame (r : DropReason) (o : OpRec) (s : State) : ChannelFrame s (dropRec r o s) :=
  ((setWaiting_frame _ s).trans (tell_frame o _ _)).trans (note_frame ..)

theorem windowAtStart_frame (s : State) : ChannelFrame s (windowAtStart s) := by
  unfold windowAtStart; split <;> first | exact .refl _ | exact dropWindow_frame _ _ _

theorem openWindow_frame (o : OpRec) (s : State) : ChannelFrame s (openWindow o s) := by
  unfold openWindow; split
  · exact .refl _
  · split <;> first | exact .refl _ | exact ⟨rfl, rfl, rfl, rfl, rfl, rfl, rfl⟩

theorem startAtVc_frame (id : Byte) (s : State) : ChannelFrame s (startAtVc id s) := by
  unfold startAtVc; split
  · split <;> first | exact .refl _ | exact ⟨rfl, rfl, rfl, rfl, rfl, rfl, rfl⟩
  · exact discardSample_frame _ _
  all_goals exact .refl _

theorem endAtLearner_frame (id : Byte) (ok : Bool) (s : State) : ChannelFrame s (endAtLearner id ok s) := by
  unfold endAtLearner; split
  · split
    · exact .refl _
    · split <;> exact ⟨rfl, rfl, rfl, rfl, rfl, rfl, rfl⟩
  all_goals exact .refl _

theorem startAtStep_frame (kind : OpKind) (s : State) (k : StepNo) : ChannelFrame s (startAtStep kind s k) :=
  (putStep_frame k _ s).trans (reportStep_frame k _)

theorem formArrived_frame (o : OpRec) (s : State) : ChannelFrame s (formArrived o s) := by
  unfold formArrived; split <;> exact ⟨rfl, rfl, rfl, rfl, rfl, rfl, rfl⟩

theorem occupySlot_frame (o : OpRec) (s : State) : ChannelFrame s (occupySlot o s) :=
  ⟨rfl, rfl, rfl, rfl, rfl, rfl, rfl⟩

theorem startOp_frame (o : OpRec) (s : State) : ChannelFrame s (startOp o s) :=
  ((((((occupySlot_frame o s).trans (.foldl _ (startAtStep_frame o.kind) _ _)).trans
    (windowAtStart_frame _)).trans (openWindow_frame o _)).trans (startAtVc_frame o.id _)).trans
    (note_frame ..)).trans (formArrived_frame o _)

theorem emptySlot_frame (c : Comb) (s : State) : ChannelFrame s (emptySlot c s) := ⟨rfl, rfl, rfl, rfl, rfl, rfl, rfl⟩

theorem setFreshness_frame (s : State) : ChannelFrame s (setFreshness s) := ⟨rfl, rfl, rfl, rfl, rfl, rfl, rfl⟩

theorem closeSuccess_frame (id : Byte) (k : StepNo) (s : State) : ChannelFrame s (closeSuccess id k s) :=
  ((accountClose_frame k _ s).trans (setFreshness_frame _)).trans (reportStep_frame k _)

theorem openSuccess_frame (id : Byte) (k : StepNo) (s : State) : ChannelFrame s (openSuccess id k s) :=
  (putStep_frame k _ s).trans (reportStep_frame k _)

theorem stepSuccess_frame (kind : OpKind) (id : Byte) (k : StepNo) (s : State) :
    ChannelFrame s (stepSuccess kind id k s) := by
  cases kind
  · exact closeSuccess_frame id k s
  · exact openSuccess_frame id k s

theorem finishSuccess_frame (a : ActiveOp) (s : State) : ChannelFrame s (finishSuccess a s) :=
  ((((emptySlot_frame a.op.steps s).trans (note_frame ..)).trans
    (.foldl _ (fun v k => stepSuccess_frame a.op.kind a.op.id k v) _ _)).trans (tell_frame _ _ _)).trans
    (endAtLearner_frame _ _ _)

theorem closeFellBack_frame (k : StepNo) (s : State) : ChannelFrame s (closeFellBack k s) :=
  (putStep_frame k _ s).trans (reportStep_frame k _)

theorem applyDisposition_frame (d : Disposition) (k : StepNo) (s : State) :
    ChannelFrame s (applyDisposition d k s) := by
  cases d
  · exact closeFellBack_frame k s
  · exact lockStep_frame _ k s
  · simp only [applyDisposition]; split
    · exact closeFellBack_frame k s
    · exact (accountClose_frame k _ s).trans (reportStep_frame k _)
    · exact lockStep_frame _ k s
    · exact lockStep_frame _ k s
    · exact .refl _

theorem scheduleRetry_frame (o : OpRec) (k : StepNo) (s : State) : ChannelFrame s (scheduleRetry o k s) :=
  ⟨rfl, rfl, rfl, rfl, rfl, rfl, rfl⟩

theorem closeFailure_frame (o : OpRec) (k : StepNo) (s : State) : ChannelFrame s (closeFailure o k s) := by
  unfold closeFailure; split
  · exact lockStep_frame _ k s
  · dsimp only; split
    · exact (applyDisposition_frame _ k s).trans (scheduleRetry_frame o k _)
    · exact applyDisposition_frame _ k s
  all_goals exact .refl _

theorem stepFailure_frame (o : OpRec) (k : StepNo) (s : State) : ChannelFrame s (stepFailure o k s) := by
  unfold stepFailure; split
  · exact closeFailure_frame o k s
  · exact lockStep_frame _ k s

theorem noteFail_frame (a : ActiveOp) (s : State) : ChannelFrame s (noteFail a s) := ⟨rfl, rfl, rfl, rfl, rfl, rfl, rfl⟩

theorem stepOutcome_frame (a : ActiveOp) (s : State) (k : StepNo) : ChannelFrame s (stepOutcome a s k) := by
  unfold stepOutcome; split
  · exact stepSuccess_frame _ _ k s
  · exact stepFailure_frame _ k s

theorem finishFailure_frame (a : ActiveOp) (s : State) : ChannelFrame s (finishFailure a s) :=
  ((((emptySlot_frame a.op.steps s).trans (noteFail_frame a _)).trans
    (.foldl _ (stepOutcome_frame a) _ _)).trans (tell_frame _ _ _)).trans (endAtLearner_frame _ _ _)

/-- What one move of the channel can be: the success of a complete ACTIVE record, the drop of the head of the
waiting list, or its start (R50 to R52, R55). -/
theorem channelMove_cases {s t : State} (h : channelMove s = some t) :
    (∃ a, s.sc.active = some a ∧ a.missing = 0 ∧ t = finishSuccess a s)
      ∨ (s.sc.active = none ∧ s.sm.built = true ∧ ∃ o rest, s.sc.waiting = o :: rest
          ∧ ((∃ reason, t = dropRec reason o s)
            ∨ (∃ k, o.kind = .close ∧ s.sc.rest = none ∧ (stepsOf o.steps).head? = some k
                ∧ closeCheck o k s = none ∧ t = startOp o (setWaiting rest s))
            ∨ (o.kind = .open_ ∧ openKept o s ≠ 0
                ∧ t = startOp { o with steps := openKept o s } (setWaiting rest s)))) := by
  unfold channelMove at h
  split at h
  · rename_i a ha
    split at h
    · rename_i hm; cases h; exact .inl ⟨a, ha, hm, rfl⟩
    · cases h
  · rename_i ha
    split at h
    · cases h
    · rename_i hb
      split at h
      · cases h
      · rename_i o rest hw
        refine .inr ⟨ha, by simpa using hb, o, rest, hw, ?_⟩
        split at h
        · rename_i hk
          split at h
          · cases h
          · rename_i hr
            split at h
            · cases h; exact .inl ⟨_, rfl⟩
            · rename_i k hh
              split at h
              · cases h; exact .inl ⟨_, rfl⟩
              · rename_i hc; cases h; exact .inr (.inl ⟨k, hk, by simpa using hr, hh, hc, rfl⟩)
        · rename_i hk
          split at h
          · cases h; exact .inl ⟨_, rfl⟩
          · rename_i hne; cases h; exact .inr (.inr ⟨hk, hne, rfl⟩)

theorem channelMove_frame {s t : State} (h : channelMove s = some t) : ChannelFrame s t := by
  obtain ⟨a, -, -, rfl⟩ | ⟨-, -, o, rest, -, ⟨r, rfl⟩ | ⟨k, -, -, -, -, rfl⟩ | ⟨-, -, rfl⟩⟩ := channelMove_cases h
  · exact finishSuccess_frame a s
  · exact dropRec_frame r o s
  · exact (setWaiting_frame rest s).trans (startOp_frame o _)
  · exact (setWaiting_frame rest s).trans (startOp_frame _ _)

/-- What every move of the channel keeps, `serve` keeps. -/
theorem serve_keeps (P : State → Prop) (move : ∀ s t, channelMove s = some t → P s → P t) (s : State) (h : P s) :
    P (serve s) := by
  have go : ∀ (n : Nat) (u : State), P u → P (moveChannel n u) := by
    intro n
    induction n with
    | zero => intro u hu; exact hu
    | succ n ih =>
      intro u hu
      simp only [moveChannel]
      split
      · exact hu
      · rename_i v hv; exact ih v (move u v hv hu)
  exact go _ s h

theorem serve_frame (s : State) : ChannelFrame s (serve s) :=
  serve_keeps (ChannelFrame s) (fun _ _ h k => k.trans (channelMove_frame h)) s (.refl s)

/-! ### Requests -/

theorem enqueue_frame (q : OpReq) (s : State) : ChannelFrame s (enqueue q s).2 := ⟨rfl, rfl, rfl, rfl, rfl, rfl, rfl⟩

theorem mergeInto_frame (o : OpRec) (q : OpReq) (s : State) : ChannelFrame s (mergeInto o q s).2 := by
  simp only [mergeInto]; split <;> exact setWaiting_frame _ s

theorem admitRec_frame (q : OpReq) (s : State) : ChannelFrame s (admitRec q s).2 := by
  unfold admitRec; split
  · exact enqueue_frame q s
  · split
    · exact .refl _
    · split
      · exact (cancelRec_frame _ _ s).trans (enqueue_frame q _)
      · split
        · exact setWaiting_frame _ s
        · exact .refl _

theorem resolveClose_frame (q : OpReq) (k : StepNo) (s : State) : ChannelFrame s (resolveClose q k s).2 := by
  unfold resolveClose; split
  · exact .refl _
  · split
    · exact admitRec_frame q s
    · split <;> first | exact mergeInto_frame _ q s | exact .refl _

theorem windowAtTakeOver_frame (id : Byte) (s : State) : ChannelFrame s (windowAtTakeOver id s) := by
  unfold windowAtTakeOver; split
  · split
    · exact ⟨rfl, rfl, rfl, rfl, rfl, rfl, rfl⟩
    · exact dropWindow_frame _ _ _
  all_goals exact windowAtStart_frame s

theorem abortActive_frame (a : ActiveOp) (k : StepNo) (s : State) : ChannelFrame s (abortActive a k s) :=
  (ChannelFrame.trans (s := s) (t := mapCoils (bit k) (fun _ c => { c with close := none }) s)
    ⟨rfl, rfl, rfl, rfl, rfl, rfl, rfl⟩ (tell_frame a.op .aborted _)).trans (note_frame ..)

theorem bumpId_frame (s : State) : ChannelFrame s (bumpId s) := ⟨rfl, rfl, rfl, rfl, rfl, rfl, rfl⟩

theorem startTakeOver_frame (id : Byte) (o : OpRec) (k : StepNo) (s : State) :
    ChannelFrame s (startTakeOver id o k s) :=
  ((((((bumpId_frame s).trans (occupySlot_frame o _)).trans (startAtStep_frame .open_ _ k)).trans
    (windowAtTakeOver_frame id _)).trans (startAtVc_frame o.id _)).trans (note_frame ..)).trans
    (formArrived_frame o _)

theorem takeOver_frame (a : ActiveOp) (k : StepNo) (c : Cause) (r : Requester) (s : State) :
    ChannelFrame s (takeOver a k c r s).2 :=
  (abortActive_frame a k s).trans (startTakeOver_frame _ _ k _)

theorem resolveOpenWaiting_frame (q : OpReq) (k : StepNo) (s : State) :
    ChannelFrame s (resolveOpen.resolveOpenWaiting q k s).2 := by
  unfold resolveOpen.resolveOpenWaiting; split
  · exact admitRec_frame q s
  · split
    · exact mergeInto_frame _ q s
    · exact (cancelRec_frame _ _ s).trans (admitRec_frame q _)

theorem resolveOpen_frame (q : OpReq) (k : StepNo) (s : State) : ChannelFrame s (resolveOpen q k s).2 := by
  unfold resolveOpen; split
  · split
    · split
      · exact .refl _
      · split
        · exact takeOver_frame _ k _ _ s
        · exact .refl _
    · exact resolveOpenWaiting_frame q k s
  · exact resolveOpenWaiting_frame q k s

theorem stripRec_frame (g : Comb) (s : State) (o : OpRec) : ChannelFrame s (stripRec g s o) := by
  unfold stripRec; split
  · exact .refl _
  · split
    · exact cancelRec_frame _ o s
    · split
      · exact cancelRec_frame _ o s
      · exact setWaiting_frame _ s

theorem stripWaiting_frame (g : Comb) (s : State) : ChannelFrame s (stripWaiting g s) :=
  .foldl _ (stripRec_frame g) _ s

theorem finishGroup_frame (q : OpReq) (g : Comb) (took : Option Byte) (s : State) :
    ChannelFrame s (resolveGroup.finishGroup q g took s).2 := by
  unfold resolveGroup.finishGroup; split
  · exact .refl _
  · exact (stripWaiting_frame g s).trans (admitRec_frame _ _)

theorem resolveGroup_frame (q : OpReq) (s : State) : ChannelFrame s (resolveGroup q s).2 := by
  unfold resolveGroup; split
  · split
    · exact finishGroup_frame ..
    · split
      · exact finishGroup_frame ..
      · exact (takeOver_frame ..).trans (finishGroup_frame ..)
  · exact finishGroup_frame ..

theorem cancelRetries_frame (c : Comb) (s : State) : ChannelFrame s (cancelRetries c s) :=
  .foldl _ (fun t k => cancelRetry_frame _ k t) _ s

theorem request_frame (q : OpReq) (k : StepNo) (s : State) : ChannelFrame s (request q k s).2 := by
  unfold request; split
  · exact (cancelRetries_frame _ s).trans (resolveClose_frame q k _)
  · exact (cancelRetries_frame _ s).trans (resolveOpen_frame q k _)

theorem requestGroup_frame (q : OpReq) (s : State) : ChannelFrame s (requestGroup q s).2 :=
  (cancelRetries_frame _ s).trans (resolveGroup_frame q _)

theorem endRetry_frame (r : Retry) (k : StepNo) (a : Answer) (s : State) : ChannelFrame s (endRetry r k a s) := by
  cases a <;> exact ⟨rfl, rfl, rfl, rfl, rfl, rfl, rfl⟩

theorem retryRequest_frame (r : Retry) (k : StepNo) (s : State) : ChannelFrame s (retryRequest r k s) :=
  ((resolveClose_frame _ k s).trans (endRetry_frame r k _ _)).trans (serve_frame _)

theorem retryAtReady_frame (k : StepNo) (s : State) : ChannelFrame s (retryAtReady k s) := by
  unfold retryAtReady; split
  · exact .refl _
  · split
    · exact retryRequest_frame _ k s
    · exact .refl _

theorem cancelDirected_frame (s : State) (o : OpRec) : ChannelFrame s (cancelDirected s o) := by
  unfold cancelDirected; split
  · exact cancelRec_frame _ o s
  · exact .refl _

theorem cancelDirectedRetry_frame (s : State) (k : StepNo) : ChannelFrame s (cancelDirectedRetry s k) := by
  unfold cancelDirectedRetry; split
  · exact .refl _
  · split
    · exact cancelRetry_frame _ k s
    · exact .refl _

theorem cancelDirectedCloses_frame (s : State) : ChannelFrame s (cancelDirectedCloses s) :=
  ((ChannelFrame.foldl _ cancelDirected_frame _ s).trans (.foldl _ cancelDirectedRetry_frame _ _)).trans
    (serve_frame _)

end Sys2Proof.Machine
end

