-- ==== Sys2Proof/Laws/Ops.lean ====
section
/-! SUPPORT. One lemma per shared operation that says what it can do: combinations, the Insertion List, the Event Queue with the held WAIT, locks and BKTRIP, the waiting list, and the handling of a request frame. -/

namespace Sys2Proof.Machine

/-! ### Combinations -/

theorem mem_bit (j k : StepNo) : mem (bit j) k = decide (j = k) := by
  revert j k; decide

@[simp] theorem mem_bit_self (k : StepNo) : mem (bit k) k = true := by simp [mem_bit]

theorem mem_or (c d : Comb) (k : StepNo) : mem (c ||| d) k = (mem c k || mem d k) := by simp [mem]

theorem mem_and (c d : Comb) (k : StepNo) : mem (c &&& d) k = (mem c k && mem d k) := by simp [mem]

theorem mem_without (c d : Comb) (k : StepNo) : mem (without c d) k = (mem c k && !mem d k) := by
  simp [mem, without, k.isLt]

@[simp] theorem mem_zero (k : StepNo) : mem 0#6 k = false := by simp [mem]

/-- Two combinations with the same members are the same. -/
theorem comb_ext {c d : Comb} (h : ∀ k, mem c k = mem d k) : c = d := by
  apply BitVec.eq_of_getLsbD_eq
  intro i hi
  exact h ⟨i, hi⟩

theorem comb_eq_zero_iff (c : Comb) : c = 0 ↔ ∀ k, mem c k = false :=
  ⟨fun h k => by rw [h]; exact mem_zero k, fun h => comb_ext fun k => (h k).trans (mem_zero k).symm⟩

@[simp] theorem mem_allSteps (k : StepNo) : k ∈ allSteps := by revert k; decide

@[simp] theorem mem_allFilters (f : FilterNo) : f ∈ allFilters := by revert f; decide

theorem allSteps_nodup : allSteps.Nodup := by decide

/-- The members of a combination, listed. -/
@[simp] theorem mem_stepsOf (c : Comb) (k : StepNo) : k ∈ stepsOf c ↔ mem c k = true := by simp [stepsOf]

theorem stepsOf_nodup (c : Comb) : (stepsOf c).Nodup := allSteps_nodup.filter _

theorem stepsOf_bit (k : StepNo) : stepsOf (bit k) = [k] := by revert k; decide

@[simp] theorem single_bit (k : StepNo) : single (bit k) = some k := by simp [single, stepsOf_bit]

/-- Membership of the combination formed by a predicate. -/
theorem mem_combOf (p : StepNo → Bool) (k : StepNo) : mem (combOf p) k = p k := by
  have go : ∀ (l : List StepNo) (c : Comb),
      mem (l.foldl (fun c j => if p j then c ||| bit j else c) c) k = (mem c k || (decide (k ∈ l) && p k)) := by
    intro l
    induction l with
    | nil => intro c; simp
    | cons j l ih =>
      intro c
      simp only [List.foldl_cons, ih, List.mem_cons]
      by_cases hj : k = j
      · subst hj; cases hp : p k <;> simp [mem_or]
      · have hj' : ¬ j = k := fun h => hj h.symm
        cases hp : p j <;> simp [mem_or, mem_bit, hj, hj']
  simp [combOf, go]

/-- The energized set, step by step (R21). -/
theorem mem_energized (s : State) (k : StepNo) : mem s.energized k = (s.stp k).energized := mem_combOf _ _

/-- The energized set is read from the Step Table alone. -/
theorem energized_of_sm {s t : State} (h : ∀ k, (t.stp k).energized = (s.stp k).energized) :
    t.energized = s.energized := comb_ext fun k => by simp [mem_energized, h k]

/-- Settling does not move a step in or out of the energized set. -/
@[simp] theorem settle_energized (r : StepRec) : r.settle.energized = r.energized := by
  unfold StepRec.settle; split <;> rfl

@[simp] theorem settle_state (r : StepRec) : r.settle.state = r.state := by unfold StepRec.settle; split <;> rfl
@[simp] theorem settle_sensed (r : StepRec) : r.settle.sensed = r.sensed := by unfold StepRec.settle; split <;> rfl
@[simp] theorem settle_commanded (r : StepRec) : r.settle.commanded = r.commanded := by
  unfold StepRec.settle; split <;> rfl
@[simp] theorem settle_locks (r : StepRec) : r.settle.locks = r.locks := by unfold StepRec.settle; split <;> rfl
@[simp] theorem settle_posA (r : StepRec) : r.settle.posA = r.posA := by unfold StepRec.settle; split <;> rfl
@[simp] theorem settle_posB (r : StepRec) : r.settle.posB = r.posB := by unfold StepRec.settle; split <;> rfl
@[simp] theorem settle_openSince (r : StepRec) : r.settle.openSince = r.openSince := by
  unfold StepRec.settle; split <;> rfl
@[simp] theorem settle_closedSince (r : StepRec) : r.settle.closedSince = r.closedSince := by
  unfold StepRec.settle; split <;> rfl
@[simp] theorem settle_discharge (r : StepRec) : r.settle.discharge = r.discharge := by
  unfold StepRec.settle; split <;> rfl
@[simp] theorem settle_closeList (r : StepRec) : r.settle.closeList = r.closeList := by
  unfold StepRec.settle; split <;> rfl
@[simp] theorem settle_leave (r : StepRec) : r.settle.leave = r.leave := by unfold StepRec.settle; split <;> rfl
@[simp] theorem settle_minClosed (r : StepRec) : r.settle.minClosed = r.minClosed := by
  unfold StepRec.settle; split <;> rfl
@[simp] theorem settle_inrush (r : StepRec) : r.settle.inrush = r.inrush := by unfold StepRec.settle; split <;> rfl
@[simp] theorem settle_watch (r : StepRec) : r.settle.watch = r.watch := by unfold StepRec.settle; split <;> rfl
@[simp] theorem settle_alarmFlag (r : StepRec) : r.settle.alarmFlag = r.alarmFlag := by
  unfold StepRec.settle; split <;> rfl
@[simp] theorem settle_closeCount (r : StepRec) : r.settle.closeCount = r.closeCount := by
  unfold StepRec.settle; split <;> rfl
@[simp] theorem settle_openCount (r : StepRec) : r.settle.openCount = r.openCount := by
  unfold StepRec.settle; split <;> rfl
@[simp] theorem settle_lastOp (r : StepRec) : r.settle.lastOp = r.lastOp := by unfold StepRec.settle; split <;> rfl

/-- A supervised record settles to itself. -/
theorem settle_of_supervised {r : StepRec} (h : r.supervised = true) : r.settle = r := by simp [StepRec.settle, h]

/-! ### The Insertion List (R22) -/

/-- The list formed afresh names exactly the members of the set. -/
theorem mem_reformInsertion (e : Comb) (l : List StepNo) (k : StepNo) :
    k ∈ reformInsertion e l ↔ mem e k = true := by
  by_cases h : k ∈ l <;> simp [reformInsertion, h]

/-- It names each once when the list before did. -/
theorem reformInsertion_nodup (e : Comb) {l : List StepNo} (h : l.Nodup) : (reformInsertion e l).Nodup := by
  refine List.Nodup.append (h.filter _) ((stepsOf_nodup e).filter _) ?_
  intro a ha hb
  simp_all

/-- With the same members in the list already, it is unchanged. -/
theorem reformInsertion_same (e : Comb) {l : List StepNo} (h : ∀ k, k ∈ l ↔ mem e k = true) :
    reformInsertion e l = l := by
  have h1 : l.filter (mem e) = l := List.filter_eq_self.mpr fun k hk => (h k).mp hk
  have h2 : ((stepsOf e).filter fun k => !l.contains k) = [] := by
    simp only [List.filter_eq_nil_iff, mem_stepsOf]
    intro k hk; simp [(h k).mpr hk]
  unfold reformInsertion
  rw [h1, h2, List.append_nil]

/-! ### The Event Queue, ATTN and the held WAIT (R174, R176, R177) -/

/-- What an append can do to the queue. -/
theorem joinQueue_cases (l : List EventRec) (e : EventRec) :
    (l.length < 64 ∧ joinQueue l e = (l ++ [e], true, false))
      ∨ (64 ≤ l.length ∧ ∃ c, (∃ r ∈ l, r.cls = c)
          ∧ joinQueue l e = (l.eraseP (fun r => r.cls = c) ++ [e], true, true))
      ∨ (64 ≤ l.length ∧ joinQueue l e = (l, false, true)) := by
  unfold joinQueue
  split
  · exact .inl ⟨‹_›, rfl⟩
  · rename_i h
    have h64 : 64 ≤ l.length := by omega
    split
    · rename_i hi; exact .inr (.inl ⟨h64, .info, by simpa using hi, rfl⟩)
    · split
      · rename_i ha; exact .inr (.inl ⟨h64, .alarm, by simpa using ha, rfl⟩)
      · exact .inr (.inr ⟨h64, rfl⟩)

/-- An append keeps the bound of the queue. -/
theorem joinQueue_length {l : List EventRec} (e : EventRec) (h : l.length ≤ 64) : (joinQueue l e).1.length ≤ 64 := by
  obtain ⟨hl, hq⟩ | ⟨hl, c, ⟨r, hr, hc⟩, hq⟩ | ⟨hl, hq⟩ := joinQueue_cases l e
  · simp [hq]; omega
  · have := List.length_eraseP_of_mem (p := fun r : EventRec => decide (r.cls = c)) hr (by simp [hc])
    simp only [hq, List.length_append, this, List.length_singleton]; omega
  · simp [hq, h]

/-- What an append does to the Link Interface: the queue and ATTN as the rules give, and nothing else but the gap
flag and the answer to the held WAIT. -/
theorem append_cases (c : EvClass) (e : EventRec) (l : Link) :
    (Link.append c e l).events = (joinQueue l.events e).1
      ∧ (Link.append c e l).attn = attnOf c (joinQueue l.events e).1
      ∧ (Link.append c e l).gap = (l.gap || (joinQueue l.events e).2.2)
      ∧ (Link.append c e l).rate = l.rate ∧ (Link.append c e l).rx = l.rx
      ∧ (Link.append c e l).rxLimit = l.rxLimit ∧ (Link.append c e l).sticky = l.sticky
      ∧ (((Link.append c e l).held = l.held ∧ (Link.append c e l).replies = l.replies)
        ∨ ∃ w, l.held = some w ∧ inMask w.mask e.cls = true ∧ (Link.append c e l).held = none
            ∧ ∃ n, (Link.append c e l).replies =
                l.replies ++ [⟨replyKind waitKind, w.tag, .event, .waitEvent e.kind e.cls e.time n⟩]) := by
  simp only [Link.append]
  split
  · simp_all
  · rename_i w hw
    split
    · rename_i hj
      simp only [Bool.and_eq_true] at hj
      refine ⟨rfl, rfl, rfl, rfl, rfl, rfl, rfl, .inr ⟨w, hw, hj.2, rfl, _, rfl⟩⟩
    · exact ⟨rfl, rfl, rfl, rfl, rfl, rfl, rfl, .inl ⟨hw.symm ▸ hw, rfl⟩⟩

/-- An append leaves the places of the reply list in use as they were: the reserved place is filled (R167). -/
theorem append_places (c : EvClass) (e : EventRec) (l : Link) :
    (Link.append c e l).replies.length + (if (Link.append c e l).held = none then 0 else 1)
      = l.replies.length + (if l.held = none then 0 else 1) := by
  obtain ⟨-, -, -, -, -, -, -, ⟨hh, hr⟩ | ⟨w, hw, -, hh, n, hr⟩⟩ := append_cases c e l
  · rw [hh, hr]
  · simp [hh, hr, hw]

/-- A record made by `note` on the Link Interface. -/
theorem note_li (kind : EventKind) (cls : EvClass) (step : Option StepNo) (id : Option Byte) (v w : Option Int)
    (s : State) :
    (note kind cls step id v w s).li = s.li.append s.settings.yard.attnClass ⟨s.clock, kind, cls, step, id, v, w⟩ := rfl

/-! ### Locks and BKTRIP (R33, R61) -/

/-- After BKTRIP is formed it says whether some lock is OPEN-FAIL. -/
theorem reformBktrip_law (k : StepNo) (s : State) : BktripLaw (reformBktrip k s) := by
  unfold BktripLaw reformBktrip
  split
  · rename_i h; exact h.symm
  · split
    · rename_i h; simp [note, appendEvent, anyOpenFail, State.stp] at h ⊢; exact h
    · rename_i h; simp [note, appendEvent, anyOpenFail, State.stp] at h ⊢; exact h

/-! ### The waiting list (R42) -/

/-- A record is placed behind the records of its class or a higher one and before the others. -/
theorem placeRec_perm (o : OpRec) (l : List OpRec) : (placeRec o l).Perm (o :: l) := by
  unfold placeRec
  refine List.perm_middle.trans ?_
  rw [List.takeWhile_append_dropWhile]

@[simp] theorem placeRec_length (o : OpRec) (l : List OpRec) : (placeRec o l).length = l.length + 1 := by
  simpa using (placeRec_perm o l).length_eq

/-! ### The handling of a frame (R81, R166, R167) -/

/-- What the handling of a frame of a known kind can be. -/
theorem handle_cases (kind : Byte) (len : Nat) (owner : List Byte → State → State) (tag : Byte) (p : List Byte)
    (s : State) :
    (hasRoom s = false ∧ handle kind len owner tag p s = s)
      ∨ (hasRoom s = true ∧ p.length = len ∧ handle kind len owner tag p s = owner p (refreshSupervision s))
      ∨ (hasRoom s = true ∧ p.length ≠ len
          ∧ handle kind len owner tag p s = answer kind tag .malformed .empty (refreshSupervision s)) := by
  unfold handle
  cases h : hasRoom s
  · exact .inl ⟨rfl, by simp⟩
  · by_cases hp : p.length = len
    · exact .inr (.inl ⟨rfl, hp, by simp [hp]⟩)
    · exact .inr (.inr ⟨rfl, hp, by simp [hp]⟩)

end Sys2Proof.Machine
end

