-- ==== Sys2Proof/Laws/Phasor.lean ====
section
/-! SUPPORT. The fixed-point turn against the real cosine and sine: a turned component is a whole number next to the exact one, and every whole number next to it is allowed, and a whole one is given as it is (R4). -/

namespace Sys2Proof.Machine

/-! ### Rounding -/

/-- Floor division as a real bound. -/
theorem divFloor_bounds (a : Int) {b : Nat} (hb : 0 < b) :
    (divFloor a b : ℝ) * b ≤ a ∧ (a : ℝ) < (divFloor a b + 1) * b := by
  have hb' : (0 : Int) < b := by exact_mod_cast hb
  have e : divFloor a b = a / (b : Int) := Int.fdiv_eq_ediv_of_nonneg _ hb'.le
  rw [e]
  exact ⟨by exact_mod_cast Int.ediv_mul_le a hb'.ne', by exact_mod_cast Int.lt_ediv_add_one_mul_self a hb'⟩

/-- A fixed-point floor is within one unit of the quotient. -/
theorem divFloor_near (a : Int) {b : Nat} (hb : 0 < b) : |(divFloor a b : ℝ) - a / b| ≤ 1 := by
  obtain ⟨h1, h2⟩ := divFloor_bounds a hb
  have hb' : (0 : ℝ) < b := by exact_mod_cast hb
  have h3 : (divFloor a b : ℝ) ≤ a / b := (le_div_iff₀ hb').2 h1
  have h4 : (a / b : ℝ) < divFloor a b + 1 := (div_lt_iff₀ hb').2 h2
  rw [abs_le]; constructor <;> linarith

/-! ### The unit vector of an angle -/

/-- A fixed-point pair as a complex number. -/
noncomputable def ofFixed (z : Int × Int) : ℂ := ⟨(z.1 : ℝ) / fixedUnit, (z.2 : ℝ) / fixedUnit⟩

theorem fixedUnit_cast : ((fixedUnit : ℕ) : ℝ) = 2 ^ 128 := by norm_num [fixedUnit]

/-- Squaring in fixed point loses at most two units. -/
theorem squareFixed_near (z : Int × Int) : ‖ofFixed (squareFixed z) - ofFixed z ^ 2‖ ≤ 2 / 2 ^ 128 := by
  have hu : 0 < fixedUnit := by decide
  have h1 := divFloor_near (z.1 * z.1 - z.2 * z.2) hu
  have h2 := divFloor_near (2 * z.1 * z.2) hu
  rw [fixedUnit_cast] at h1 h2
  push_cast at h1 h2
  have hre : |(ofFixed (squareFixed z) - ofFixed z ^ 2).re| ≤ 1 / 2 ^ 128 := by
    have e : (ofFixed (squareFixed z) - ofFixed z ^ 2).re
        = ((divFloor (z.1 * z.1 - z.2 * z.2) fixedUnit : ℝ) - ((z.1 : ℝ) * z.1 - z.2 * z.2) / 2 ^ 128) / 2 ^ 128 := by
      simp [ofFixed, squareFixed, pow_two, fixedUnit_cast]; ring
    rw [e, abs_div, abs_of_pos (by positivity : (0 : ℝ) < 2 ^ 128)]
    exact div_le_div_of_nonneg_right h1 (by positivity)
  have him : |(ofFixed (squareFixed z) - ofFixed z ^ 2).im| ≤ 1 / 2 ^ 128 := by
    have e : (ofFixed (squareFixed z) - ofFixed z ^ 2).im
        = ((divFloor (2 * z.1 * z.2) fixedUnit : ℝ) - (2 * z.1 * z.2 : ℝ) / 2 ^ 128) / 2 ^ 128 := by
      simp [ofFixed, squareFixed, pow_two, fixedUnit_cast]; ring
    rw [e, abs_div, abs_of_pos (by positivity : (0 : ℝ) < 2 ^ 128)]
    exact div_le_div_of_nonneg_right h2 (by positivity)
  calc ‖ofFixed (squareFixed z) - ofFixed z ^ 2‖ ≤ _ := Complex.norm_le_abs_re_add_abs_im _
    _ ≤ 1 / 2 ^ 128 + 1 / 2 ^ 128 := add_le_add hre him
    _ = 2 / 2 ^ 128 := by ring

/-- How the error grows over one doubling, in units. -/
def errorAfter : Nat → Nat → Nat
  | 0, b => b
  | n + 1, b => errorAfter n (2 * b + b * b / 2 ^ 128 + 3)

/-- One doubling of an angle that is known within `b` units. -/
theorem squareFixed_error {z : Int × Int} {t : ℝ} {b : Nat} (h : ‖ofFixed z - Complex.exp (t * Complex.I)‖ ≤ b / 2 ^ 128) :
    ‖ofFixed (squareFixed z) - Complex.exp ((2 * t : ℝ) * Complex.I)‖
      ≤ (2 * b + b * b / 2 ^ 128 + 3 : Nat) / 2 ^ 128 := by
  set e := Complex.exp (t * Complex.I) with he
  have hn : ‖e‖ = 1 := Complex.norm_exp_ofReal_mul_I t
  have hs : Complex.exp ((2 * t : ℝ) * Complex.I) = e ^ 2 := by
    rw [he, ← Complex.exp_nat_mul]; congr 1; push_cast; ring
  have hb : (0 : ℝ) ≤ b / 2 ^ 128 := by positivity
  have hq : ‖ofFixed z ^ 2 - e ^ 2‖ ≤ b / 2 ^ 128 * (b / 2 ^ 128 + 2) := by
    have hp : ‖ofFixed z + e‖ ≤ b / 2 ^ 128 + 2 := by
      calc ‖ofFixed z + e‖ = ‖(ofFixed z - e) + 2 * e‖ := by congr 1; ring
        _ ≤ ‖ofFixed z - e‖ + ‖2 * e‖ := norm_add_le _ _
        _ ≤ b / 2 ^ 128 + 2 := by rw [norm_mul, hn]; simpa using h
    rw [sq_sub_sq, norm_mul, mul_comm]
    exact mul_le_mul h hp (norm_nonneg _) hb
  have hd : ((b * b : ℕ) : ℝ) / 2 ^ 128 ≤ ((b * b / 2 ^ 128 : ℕ) : ℝ) + 1 := by
    have := Nat.lt_div_mul_add (a := b * b) (b := 2 ^ 128) (by positivity)
    rw [div_le_iff₀ (by positivity)]
    have h' : b * b ≤ (b * b / 2 ^ 128 + 1) * 2 ^ 128 := by rw [Nat.add_mul, Nat.one_mul]; omega
    exact_mod_cast h'
  rw [hs]
  calc ‖ofFixed (squareFixed z) - e ^ 2‖
      = ‖(ofFixed (squareFixed z) - ofFixed z ^ 2) + (ofFixed z ^ 2 - e ^ 2)‖ := by congr 1; ring
    _ ≤ 2 / 2 ^ 128 + b / 2 ^ 128 * (b / 2 ^ 128 + 2) :=
        (norm_add_le _ _).trans (add_le_add (squareFixed_near z) hq)
    _ = (2 * b + ((b * b : ℕ) : ℝ) / 2 ^ 128 + 2) / 2 ^ 128 := by push_cast; ring
    _ ≤ _ := by
        apply div_le_div_of_nonneg_right _ (by positivity)
        push_cast at hd ⊢; linarith

/-- `n` doublings of an angle. -/
theorem doubleTurn_error (n : Nat) : ∀ {z : Int × Int} {t : ℝ} {b : Nat},
    ‖ofFixed z - Complex.exp (t * Complex.I)‖ ≤ b / 2 ^ 128 →
    ‖ofFixed (doubleTurn n z) - Complex.exp ((2 ^ n * t : ℝ) * Complex.I)‖ ≤ errorAfter n b / 2 ^ 128 := by
  induction n with
  | zero => intro z t b h; simpa [doubleTurn, errorAfter] using h
  | succ n ih =>
    intro z t b h
    have := ih (squareFixed_error h)
    rwa [show (2 ^ n * (2 * t) : ℝ) = 2 ^ (n + 1) * t by ring] at this

/-- The small turn is known within 50 units. -/
theorem smallTurn_error {a : Nat} (ha : a < 360000) :
    ‖ofFixed (smallTurn a) - Complex.exp ((a * Real.pi / 180000 / 2 ^ 64 : ℝ) * Complex.I)‖ ≤ (50 : Nat) / 2 ^ 128 := by
  set t : ℝ := a * Real.pi / 180000 / 2 ^ 64 with ht
  have hl := Real.pi_gt_d20
  have hh := Real.pi_lt_d20
  have ha' : (a : ℝ) ≤ 360000 := by exact_mod_cast ha.le
  have ha0 : (0 : ℝ) ≤ a := Nat.cast_nonneg a
  have ht0 : 0 ≤ t := by positivity
  have ht1 : t ≤ 6.3 / 2 ^ 64 := by
    rw [ht]
    apply div_le_div_of_nonneg_right _ (by positivity)
    rw [div_le_iff₀ (by norm_num)]
    nlinarith
  have hx : ‖(t : ℂ) * Complex.I‖ = t := by simp [abs_of_nonneg ht0]
  have h1 : ‖(1 + (t : ℂ) * Complex.I) - Complex.exp (t * Complex.I)‖ ≤ 40 / 2 ^ 128 := by
    have h := Complex.norm_exp_sub_one_sub_id_le (x := (t : ℂ) * Complex.I)
      (by rw [hx]; exact ht1.trans (by norm_num))
    rw [hx] at h
    rw [norm_sub_rev, ← sub_sub]
    refine h.trans ((pow_le_pow_left₀ ht0 ht1 2).trans (by norm_num))
  set v := divFloor (a * 314159265358979323846 * 2 ^ 64 : Nat) (180000 * 10 ^ 20) with hv
  have h2 := divFloor_near (a * 314159265358979323846 * 2 ^ 64 : Nat) (b := 180000 * 10 ^ 20) (by norm_num)
  rw [← hv] at h2
  have h3 : |(v : ℝ) / 2 ^ 128 - t| ≤ 2 / 2 ^ 128 := by
    have e : (v : ℝ) / 2 ^ 128 - t = ((v : ℝ) - a * 314159265358979323846 * 2 ^ 64 / (180000 * 10 ^ 20)
        + a * (3.14159265358979323846 - Real.pi) / 180000 * 2 ^ 64) / 2 ^ 128 := by
      rw [ht]; ring
    have h4 : |(a : ℝ) * (3.14159265358979323846 - Real.pi) / 180000 * 2 ^ 64| ≤ 1 := by
      rw [abs_le]; constructor <;> nlinarith
    rw [e, abs_div, abs_of_pos (by positivity : (0 : ℝ) < 2 ^ 128)]
    apply div_le_div_of_nonneg_right _ (by positivity)
    push_cast at h2
    exact (abs_add_le _ _).trans (by linarith)
  have h5 : ofFixed (smallTurn a) - (1 + (t : ℂ) * Complex.I) = ((v : ℝ) / 2 ^ 128 - t : ℝ) * Complex.I := by
    have hs : smallTurn a = ((fixedUnit : Int), v) := rfl
    rw [hs]
    apply Complex.ext <;> simp only [ofFixed, Int.cast_natCast, fixedUnit_cast] <;> simp [-Complex.ofReal_div]
  calc ‖ofFixed (smallTurn a) - Complex.exp (t * Complex.I)‖
      = ‖(ofFixed (smallTurn a) - (1 + (t : ℂ) * Complex.I))
          + ((1 + (t : ℂ) * Complex.I) - Complex.exp (t * Complex.I))‖ := by congr 1; ring
    _ ≤ 2 / 2 ^ 128 + 40 / 2 ^ 128 := by
        refine (norm_add_le _ _).trans (add_le_add ?_ h1)
        rw [h5, norm_mul, Complex.norm_I, mul_one, Complex.norm_real]; exact h3
    _ ≤ _ := by norm_num

/-- The angle of a reference in radians. -/
noncomputable def radians (ref : Nat) : ℝ := ref * Real.pi / 180000

/-- Cosine and sine of a reference in fixed point are known within 2^-51. -/
theorem unitTurn_near (ref : Nat) :
    |((unitTurn ref).1 : ℝ) / 2 ^ 128 - Real.cos (radians ref)| ≤ 1 / 2 ^ 51
      ∧ |((unitTurn ref).2 : ℝ) / 2 ^ 128 - Real.sin (radians ref)| ≤ 1 / 2 ^ 51 := by
  have h := doubleTurn_error 64 (smallTurn_error (Nat.mod_lt ref (by norm_num : 0 < 360000)))
  set s : ℝ := ((ref % 360000 : ℕ) : ℝ) * Real.pi / 180000
  have hs : (2 ^ 64 * (s / 2 ^ 64) : ℝ) = s := by ring
  rw [hs] at h
  have hm : (ref : ℝ) = (ref % 360000 : ℕ) + 360000 * (ref / 360000 : ℕ) := by
    exact_mod_cast (Nat.mod_add_div ref 360000).symm
  have hr : radians ref = s + (ref / 360000 : ℕ) * (2 * Real.pi) := by
    rw [radians, hm]; ring
  have hb : (errorAfter 64 50 : ℝ) / 2 ^ 128 ≤ 1 / 2 ^ 51 := by
    have : errorAfter 64 50 ≤ 2 ^ 77 := by decide +kernel
    rw [div_le_div_iff₀ (by positivity) (by positivity)]
    exact_mod_cast (Nat.mul_le_mul_right _ this).trans (by norm_num)
  have hc : Complex.exp ((s : ℂ) * Complex.I) = ⟨Real.cos s, Real.sin s⟩ := by
    apply Complex.ext
    · simp [Complex.exp_ofReal_mul_I_re]
    · simp [Complex.exp_ofReal_mul_I_im]
  rw [hc] at h
  rw [hr, Real.cos_add_nat_mul_two_pi, Real.sin_add_nat_mul_two_pi]
  have h' := h.trans hb
  constructor
  · have := (Complex.abs_re_le_norm _).trans h'
    simpa [ofFixed, unitTurn, fixedUnit_cast] using this
  · have := (Complex.abs_im_le_norm _).trans h'
    simpa [ofFixed, unitTurn, fixedUnit_cast] using this

/-! ### The turned components -/

/-- The whole number a fixed-point value becomes lies next to it. -/
theorem roundOpen_near (v slack pick : Int) (hs : 0 ≤ slack) :
    |(roundOpen v slack pick : ℝ) - v / 2 ^ 128| ≤ 1 + (slack : ℝ) / 2 ^ 128 := by
  have hu : 0 < fixedUnit := by decide
  obtain ⟨-, h2⟩ := divFloor_bounds (v - slack) hu
  obtain ⟨-, h4⟩ := divFloor_bounds (-(v + slack)) hu
  obtain ⟨h1, -⟩ := divFloor_bounds (v - slack) hu
  obtain ⟨h3, -⟩ := divFloor_bounds (-(v + slack)) hu
  rw [fixedUnit_cast] at h1 h2 h3 h4
  push_cast at h1 h2 h3 h4
  have hs' : (0 : ℝ) ≤ slack := by exact_mod_cast hs
  have hp : (0 : ℝ) < 2 ^ 128 := by positivity
  have hlo : (v : ℝ) / 2 ^ 128 - (1 + slack / 2 ^ 128) ≤ (divFloor (v - slack) fixedUnit : ℝ) := by
    rw [← sub_nonneg]; field_simp; nlinarith
  have hhi : ((-divFloor (-(v + slack)) fixedUnit : Int) : ℝ) ≤ (v : ℝ) / 2 ^ 128 + (1 + slack / 2 ^ 128) := by
    push_cast; rw [← sub_nonneg]; field_simp; nlinarith
  have hle : (divFloor (v - slack) fixedUnit : ℝ) ≤ ((-divFloor (-(v + slack)) fixedUnit : Int) : ℝ) := by
    push_cast; nlinarith
  have hle' : divFloor (v - slack) fixedUnit ≤ -divFloor (-(v + slack)) fixedUnit := by exact_mod_cast hle
  have hb : divFloor (v - slack) fixedUnit ≤ roundOpen v slack pick
      ∧ roundOpen v slack pick ≤ -divFloor (-(v + slack)) fixedUnit := by
    unfold roundOpen clampInt; split <;> [skip; split] <;> omega
  have hb1 : (divFloor (v - slack) fixedUnit : ℝ) ≤ roundOpen v slack pick := by exact_mod_cast hb.1
  have hb2 : (roundOpen v slack pick : ℝ) ≤ ((-divFloor (-(v + slack)) fixedUnit : Int) : ℝ) := by exact_mod_cast hb.2
  rw [abs_le]; constructor <;> linarith

/-- A linear combination of cosine and sine in fixed point is within 2^-51 of the exact one for each unit. -/
theorem combine_near {ref : Nat} (x y : Int) :
    |((x * (unitTurn ref).1 + y * (unitTurn ref).2 : Int) : ℝ) / 2 ^ 128
        - (x * Real.cos (radians ref) + y * Real.sin (radians ref))| ≤ (|(x : ℝ)| + |(y : ℝ)|) / 2 ^ 51 := by
  obtain ⟨hc, hs⟩ := unitTurn_near ref
  have e : ((x * (unitTurn ref).1 + y * (unitTurn ref).2 : Int) : ℝ) / 2 ^ 128
      - (x * Real.cos (radians ref) + y * Real.sin (radians ref))
      = x * ((unitTurn ref).1 / 2 ^ 128 - Real.cos (radians ref))
        + y * ((unitTurn ref).2 / 2 ^ 128 - Real.sin (radians ref)) := by push_cast; ring
  rw [e]
  refine (abs_add_le _ _).trans ?_
  rw [abs_mul, abs_mul, add_div]
  exact add_le_add (by simpa [div_eq_mul_inv] using mul_le_mul_of_nonneg_left hc (abs_nonneg (x : ℝ)))
    (by simpa [div_eq_mul_inv] using mul_le_mul_of_nonneg_left hs (abs_nonneg (y : ℝ)))

/-- No whole number next to the exact component is left out: a choice of it is taken. -/
theorem roundOpen_self {v slack c : Int} {e : ℝ} (he : |(v : ℝ) / 2 ^ 128 - e| ≤ (slack : ℝ) / 2 ^ 128)
    (hc : |(c : ℝ) - e| < 1) : roundOpen v slack c = c := by
  have hu : 0 < fixedUnit := by decide
  obtain ⟨h1, -⟩ := divFloor_bounds (v - slack) hu
  obtain ⟨h3, -⟩ := divFloor_bounds (-(v + slack)) hu
  rw [fixedUnit_cast] at h1 h3
  push_cast at h1 h3
  have hp : (0 : ℝ) < 2 ^ 128 := by positivity
  have hv : (v : ℝ) / 2 ^ 128 * 2 ^ 128 = v := div_mul_cancel₀ _ hp.ne'
  have hs : (slack : ℝ) / 2 ^ 128 * 2 ^ 128 = slack := div_mul_cancel₀ _ hp.ne'
  rw [abs_le] at he
  rw [abs_lt] at hc
  have hlo : divFloor (v - slack) fixedUnit ≤ c := by
    have : (divFloor (v - slack) fixedUnit : ℝ) < c + 1 := by
      refine lt_of_mul_lt_mul_right ?_ hp.le
      nlinarith
    exact Int.lt_add_one_iff.1 (by exact_mod_cast this)
  have hhi : c ≤ -divFloor (-(v + slack)) fixedUnit := by
    have : (divFloor (-(v + slack)) fixedUnit : ℝ) < -c + 1 := by
      refine lt_of_mul_lt_mul_right ?_ hp.le
      nlinarith
    have : divFloor (-(v + slack)) fixedUnit < -c + 1 := by exact_mod_cast this
    omega
  unfold roundOpen clampInt
  split <;> [skip; split] <;> omega

/-- A rounded component lies next to the exact one. -/
theorem turned_near (ref : Nat) (x y pick : Int) :
    |(roundOpen (x * (unitTurn ref).1 + y * (unitTurn ref).2) (turnSlack x y) pick : ℝ)
        - (x * Real.cos (radians ref) + y * Real.sin (radians ref))| ≤ 1 + (|(x : ℝ)| + |(y : ℝ)|) / 2 ^ 49 := by
  have hs : ((turnSlack x y : Int) : ℝ) / 2 ^ 128 = (|(x : ℝ)| + |(y : ℝ)|) / 2 ^ 50 := by
    simp only [turnSlack]; push_cast; ring
  have h1 := roundOpen_near (x * (unitTurn ref).1 + y * (unitTurn ref).2) (turnSlack x y) pick
    (Int.natCast_nonneg _)
  have h2 := combine_near (ref := ref) x y
  rw [hs] at h1
  have h3 : (|(x : ℝ)| + |(y : ℝ)|) / 2 ^ 50 + (|(x : ℝ)| + |(y : ℝ)|) / 2 ^ 51 ≤ (|(x : ℝ)| + |(y : ℝ)|) / 2 ^ 49 := by
    have : 0 ≤ |(x : ℝ)| + |(y : ℝ)| := by positivity
    linarith
  exact (abs_sub_le _ (((x * (unitTurn ref).1 + y * (unitTurn ref).2 : Int) : ℝ) / 2 ^ 128) _).trans (by linarith)

/-! ### Components that are whole -/

theorem radians_add (n r : Nat) : radians (90000 * n + r) = radians r + n * (Real.pi / 2) := by
  simp only [radians]; push_cast; ring

theorem radians_zero : radians 0 = 0 := by simp [radians]

theorem radians_thirty : radians 30000 = Real.pi / 6 := by simp only [radians]; push_cast; ring

theorem radians_fortyFive : radians 45000 = Real.pi / 4 := by simp only [radians]; push_cast; ring

theorem radians_sixty : radians 60000 = Real.pi / 3 := by simp only [radians]; push_cast; ring

/-- The exact component `x cos r + y sin r`. -/
noncomputable def exactPart (r : Nat) (x y : Int) : ℝ := x * Real.cos (radians r) + y * Real.sin (radians r)

/-- A component taken as whole is the exact one. -/
theorem wholeTurn_exact {r : Nat} {x y c : Int} (h : wholeTurn r x y = some c) : (c : ℝ) = exactPart r x y := by
  have half (z : Int) (hz : z % 2 = 0) : ((z / 2 : Int) : ℝ) = z / 2 := by
    have : (z : ℝ) = 2 * ((z / 2 : Int) : ℝ) := by exact_mod_cast (Int.mul_ediv_cancel' (Int.dvd_of_emod_eq_zero hz)).symm
    linarith
  unfold wholeTurn at h
  split at h
  · subst_vars; cases h; simp [exactPart, radians_zero]
  split at h
  · subst_vars
    split at h <;> cases h
    obtain ⟨rfl, hy⟩ := ‹_ ∧ _›
    rw [half _ hy, exactPart, radians_thirty]; simp; ring
  split at h
  · subst_vars
    split at h <;> cases h
    have hxy : (y : ℝ) = -x := by have : y = -x := by omega
                                  rw [this]; push_cast; rfl
    rw [exactPart, radians_fortyFive, Real.cos_pi_div_four, Real.sin_pi_div_four, hxy]; push_cast; ring
  split at h
  · subst_vars
    split at h <;> cases h
    obtain ⟨rfl, hx⟩ := ‹_ ∧ _›
    rw [half _ hx, exactPart, radians_sixty]; simp; ring
  · cases h

/-- A whole multiple of the root of a number that is no square is whole only at 0. -/
theorem mul_root_whole {n : Nat} (hn : Irrational (√(n : ℝ))) {a b : Int} (h : (a : ℝ) * √(n : ℝ) = b) : a = 0 := by
  by_contra ha
  have := hn.intCast_mul ha
  rw [h] at this
  exact Int.not_irrational b this

/-- At 0, 30, 45 and 60 degrees a component that is whole is taken as whole. -/
theorem wholeTurn_of_exact {r : Nat} {x y c : Int} (hr : r = 0 ∨ r = 30000 ∨ r = 45000 ∨ r = 60000)
    (h : (c : ℝ) = exactPart r x y) : wholeTurn r x y = some c := by
  have r3 : Irrational (√((3 : ℕ) : ℝ)) := Nat.Prime.irrational_sqrt Nat.prime_three
  have r2 : Irrational (√((2 : ℕ) : ℝ)) := Nat.Prime.irrational_sqrt Nat.prime_two
  obtain rfl | rfl | rfl | rfl := hr
  · have : (c : ℝ) = x := by simpa [exactPart, radians_zero] using h
    simp [wholeTurn, (Int.cast_injective this).symm]
  · rw [exactPart, radians_thirty, Real.cos_pi_div_six, Real.sin_pi_div_six] at h
    have hx : x = 0 := mul_root_whole r3 (a := x) (b := 2 * c - y) (by push_cast; linarith)
    subst hx
    have hy : y = 2 * c := by
      have : (y : ℝ) = (2 * c : Int) := by push_cast at h ⊢; linarith
      exact_mod_cast this
    subst hy
    simp [wholeTurn]
  · rw [exactPart, radians_fortyFive, Real.cos_pi_div_four, Real.sin_pi_div_four] at h
    have hs : x + y = 0 := mul_root_whole r2 (a := x + y) (b := 2 * c) (by push_cast; linarith)
    have hc : c = 0 := by
      have hr : (x : ℝ) + y = 0 := by exact_mod_cast hs
      have : (c : ℝ) = 0 := by rw [h, ← add_mul, hr, zero_mul]
      exact_mod_cast this
    simp [wholeTurn, hs, hc]
  · rw [exactPart, radians_sixty, Real.cos_pi_div_three, Real.sin_pi_div_three] at h
    have hy : y = 0 := mul_root_whole r3 (a := y) (b := 2 * c - x) (by push_cast; linarith)
    subst hy
    have hx : x = 2 * c := by
      have : (x : ℝ) = (2 * c : Int) := by push_cast at h ⊢; linarith
      exact_mod_cast this
    subst hx
    simp [wholeTurn]

/-! ### The whole turn -/

/-- Quarter turns move a phasor's exact components. -/
theorem exactPart_quarters (n r : Nat) (x y : Int) :
    exactPart (90000 * n + r) x y = exactPart r (turnQuarters n x y).1 (turnQuarters n x y).2
      ∧ exactPart (90000 * n + r) y (-x) = exactPart r (turnQuarters n x y).2 (-(turnQuarters n x y).1) := by
  have hn := Nat.mod_add_div n 4
  have hp : radians (90000 * n + r) = radians r + (n % 4 : ℕ) * (Real.pi / 2) + (n / 4 : ℕ) * (2 * Real.pi) := by
    rw [radians_add]
    have : (n : ℝ) = (n % 4 : ℕ) + 4 * (n / 4 : ℕ) := by exact_mod_cast hn.symm
    rw [this]; ring
  have hlt : n % 4 < 4 := Nat.mod_lt _ (by norm_num)
  simp only [exactPart, hp, Real.cos_add_nat_mul_two_pi, Real.sin_add_nat_mul_two_pi, turnQuarters]
  generalize n % 4 = q at hlt
  have h3 : radians r + ((3 : ℕ) : ℝ) * (Real.pi / 2) = radians r + Real.pi / 2 + Real.pi := by push_cast; ring
  have h2 : radians r + ((2 : ℕ) : ℝ) * (Real.pi / 2) = radians r + Real.pi := by push_cast; ring
  have h1 : radians r + ((1 : ℕ) : ℝ) * (Real.pi / 2) = radians r + Real.pi / 2 := by push_cast; ring
  match q, hlt with
  | 0, _ => constructor <;> simp
  | 1, _ => rw [h1, Real.cos_add_pi_div_two, Real.sin_add_pi_div_two]; constructor <;> push_cast <;> ring
  | 2, _ => rw [h2, Real.cos_add_pi, Real.sin_add_pi]; constructor <;> push_cast <;> ring
  | 3, _ =>
    rw [h3, Real.cos_add_pi, Real.sin_add_pi, Real.cos_add_pi_div_two, Real.sin_add_pi_div_two]
    constructor <;> push_cast <;> ring

/-- A component lies next to the exact one. -/
theorem turnedPart_near (r : Nat) (x y pick : Int) :
    |(turnedPart r x y pick : ℝ) - exactPart r x y| ≤ 1 + (|(x : ℝ)| + |(y : ℝ)|) / 2 ^ 49 := by
  unfold turnedPart
  split
  · rw [wholeTurn_exact ‹_›, sub_self, abs_zero]; positivity
  · exact turned_near r x y pick

/-- At 0, 30, 45 and 60 degrees a whole component is given as it is, whatever the free choice. -/
theorem turnedPart_whole {r : Nat} {x y c : Int} (pick : Int) (hr : r = 0 ∨ r = 30000 ∨ r = 45000 ∨ r = 60000)
    (h : (c : ℝ) = exactPart r x y) : turnedPart r x y pick = c := by
  simp [turnedPart, wholeTurn_of_exact hr h]

/-- The magnitudes of a phasor's components after quarter turns. -/
theorem turnQuarters_abs (n : Nat) (x y : Int) :
    |((turnQuarters n x y).1 : ℝ)| + |((turnQuarters n x y).2 : ℝ)| = |(x : ℝ)| + |(y : ℝ)| := by
  unfold turnQuarters; split <;> simp [add_comm]

/-- A phasor referenced to an angle is its turn back by that angle, each component within 1 (and the fixed point's
part in 2^49) of the exact one (R4). -/
theorem turnBack_near (ref : Nat) (x y : Int) :
    |((turnBack ref x y).1 : ℝ) - exactPart ref x y| ≤ 1 + (|(x : ℝ)| + |(y : ℝ)|) / 2 ^ 49
      ∧ |((turnBack ref x y).2 : ℝ) - exactPart ref y (-x)| ≤ 1 + (|(x : ℝ)| + |(y : ℝ)|) / 2 ^ 49 := by
  have he := exactPart_quarters (ref / 90000) (ref % 90000) x y
  rw [Nat.div_add_mod] at he
  rw [he.1, he.2, ← turnQuarters_abs (ref / 90000) x y]
  refine ⟨turnedPart_near _ _ _ _, ?_⟩
  have h := turnedPart_near (ref % 90000) (turnQuarters (ref / 90000) x y).2 (-(turnQuarters (ref / 90000) x y).1)
    (Config.turned ref x y).2
  rwa [Int.cast_neg, abs_neg, add_comm |((turnQuarters (ref / 90000) x y).2 : ℝ)|] at h

/-- At every multiple of 30 and of 45 degrees a whole component is given as it is (R4). -/
theorem turnBack_whole {ref : Nat} {x y : Int} (hr : ref % 30000 = 0 ∨ ref % 45000 = 0) :
    (∀ c : Int, (c : ℝ) = exactPart ref x y → (turnBack ref x y).1 = c)
      ∧ ∀ c : Int, (c : ℝ) = exactPart ref y (-x) → (turnBack ref x y).2 = c := by
  have he := exactPart_quarters (ref / 90000) (ref % 90000) x y
  rw [Nat.div_add_mod] at he
  have hr' : ref % 90000 = 0 ∨ ref % 90000 = 30000 ∨ ref % 90000 = 45000 ∨ ref % 90000 = 60000 := by omega
  rw [he.1, he.2]
  exact ⟨fun c h => turnedPart_whole _ hr' h, fun c h => turnedPart_whole _ hr' h⟩

end Sys2Proof.Machine
end

