-- ==== Sys2Proof/Laws/Replies.lean ====
section
/-! SUPPORT. How long a reply is: every reply the Link Interface forms fits the envelope (Table 10-1). -/

namespace Sys2Proof.Machine

@[simp] theorem oneByte_length (n : Nat) : (oneByte n).length = 1 := rfl
@[simp] theorem flagByte_length (b : Bool) : (flagByte b).length = 1 := rfl
@[simp] theorem twoBytes_length (v : Int) : (twoBytes v).length = 2 := rfl
@[simp] theorem wordBytes_length (n : Nat) : (wordBytes n).length = 2 := rfl
@[simp] theorem fourBytes_length (v : BitVec 32) : (fourBytes v).length = 4 := rfl
@[simp] theorem longBytes_length (v : Int) : (longBytes v).length = 4 := rfl
@[simp] theorem ordersBytes_length (o : BitVec 24) : (ordersBytes o).length = 3 := rfl
@[simp] theorem stepByte_length (k : StepNo) : (stepByte k).length = 1 := rfl
@[simp] theorem valueBytes_length (v : Option Int) : (valueBytes v).length = 4 := rfl
@[simp] theorem sticky_byte_length (x : Sticky) : x.byte.length = 1 := rfl

/-- A field keeps its width, present or absent. -/
def OptField.Fits (f : OptField) : Prop := ∀ b, f.bytes = some b → b.length = f.width

theorem OptField.carried_length {f : OptField} (h : f.Fits) : f.carried.length = f.width := by
  cases hb : f.bytes with
  | none => simp [OptField.carried, hb]
  | some b => simp [OptField.carried, hb, h b hb]

theorem flatMap_carried_length {l : List OptField} (h : ∀ f ∈ l, f.Fits) :
    (l.flatMap OptField.carried).length = (l.map OptField.width).sum := by
  induction l with
  | nil => rfl
  | cons f l ih =>
    simp [List.flatMap_cons, OptField.carried_length (h f List.mem_cons_self),
      ih fun g hg => h g (List.mem_cons_of_mem _ hg)]

/-- A presence byte and the widths of its fields. -/
theorem behind_length {l : List OptField} (h : ∀ f ∈ l, f.Fits) :
    (behind l).length = 1 + (l.map OptField.width).sum := by
  simp [behind, flatMap_carried_length h]

/-- A field made from a value that may be absent keeps its width when every value has it. -/
theorem optField_fits {α : Type} (w : Nat) (o : Option α) (g : α → List Byte) (h : ∀ a, (g a).length = w) :
    (⟨w, o.map g⟩ : OptField).Fits := by
  intro b hb
  obtain ⟨a, -, rfl⟩ := Option.map_eq_some_iff.mp hb
  exact h a

theorem optClock_fits (d : Option Clock) : (optClock d).Fits := optField_fits 4 d _ fun _ => rfl
theorem optByte_fits (n : Option Nat) : (optByte n).Fits := optField_fits 1 n _ fun _ => rfl
theorem stepStatus_fits (x : StepStatus) : x.field.Fits := optField_fits 3 x.state _ fun _ => rfl

@[simp] theorem optClock_width (d : Option Clock) : (optClock d).width = 4 := rfl
@[simp] theorem optByte_width (n : Option Nat) : (optByte n).width = 1 := rfl
@[simp] theorem stepStatus_width (x : StepStatus) : x.field.width = 3 := rfl

/-- One optional clock value behind its presence byte. -/
@[simp] theorem behind_clock_length (d : Option Clock) : (behind [optClock d]).length = 5 := by
  rw [behind_length (by simp [optClock_fits])]; rfl

/-- One optional byte behind its presence byte. -/
@[simp] theorem behind_byte_length (n : Option Nat) : (behind [optByte n]).length = 2 := by
  rw [behind_length (by simp [optByte_fits])]; rfl

/-- One optional operation id behind its presence byte. -/
@[simp] theorem behind_id_length (i : Option Byte) : (behind [⟨1, i.map fun b => [b]⟩]).length = 2 := by
  rw [behind_length (by simpa using optField_fits 1 i _ fun _ => rfl)]; rfl

@[simp] theorem zeroingBytes_length (z : Option Zeroing) : (zeroingBytes z).length = 22 := by
  rw [zeroingBytes, behind_length (by
    simp only [List.mem_cons, List.not_mem_nil, or_false, forall_eq_or_imp, forall_eq]
    refine ⟨?_, ?_, ?_, ?_, ?_, ?_, ?_⟩ <;> exact optField_fits _ z _ fun _ => rfl)]
  rfl

@[simp] theorem latestBytes_length (l : Option UnbLatest) : (latestBytes l).length = 15 := by
  rw [latestBytes, behind_length (by
    simp only [List.mem_cons, List.not_mem_nil, or_false, forall_eq_or_imp, forall_eq]
    refine ⟨?_, ?_, ?_, ?_, ?_⟩ <;> exact optField_fits _ l _ fun _ => rfl)]
  rfl

@[simp] theorem insertionBytes_length (l : List StepNo) : (insertionBytes l).length = 7 := by
  rw [insertionBytes, behind_length (by simp [optByte_fits])]; rfl

@[simp] theorem closeListBytes_length (l : List Clock) : (closeListBytes l).length = 33 := by
  rw [closeListBytes, behind_length (by simp [optClock_fits])]; rfl

@[simp] theorem stage_bytes_length (g : Stage) : g.bytes.length = 6 := by simp [Stage.bytes]

/-- Every element gives as many bytes. -/
theorem flatMap_length_of {α : Type} (n : Nat) (l : List α) (g : α → List Byte) (h : ∀ a, (g a).length = n) :
    (l.flatMap g).length = l.length * n := by
  induction l with
  | nil => simp
  | cons a l ih => simp [List.flatMap_cons, h, ih, Nat.succ_mul, Nat.add_comm]

theorem cycleFrame_bytes_length (f : CycleFrame) : f.bytes.length = 49 := by
  simp only [CycleFrame.bytes, List.flatten_cons, List.flatten_nil,
    List.length_append, List.length_nil, fourBytes_length, twoBytes_length, oneByte_length, flagByte_length,
    flatMap_length_of 4 f.neutrals.toList (fun n => twoBytes n.x ++ twoBytes n.y) fun _ => rfl,
    flatMap_length_of 1 f.neutrals.toList (fun n => flagByte n.clipped) fun _ => rfl, Vector.length_toList]

theorem spectrumFrame_bytes_length (g : SpectrumFrame) : g.bytes.length = 106 := by
  simp only [SpectrumFrame.bytes, List.flatten_cons, List.flatten_nil,
    List.length_append, List.length_nil, fourBytes_length, twoBytes_length,
    flatMap_length_of 2 g.vh.toList wordBytes fun _ => rfl,
    flatMap_length_of 2 g.qh.toList wordBytes fun _ => rfl, Vector.length_toList]

theorem behind_steps_length (v : Vector StepStatus 6) :
    (behind (v.toList.map StepStatus.field)).length = 19 := by
  rw [behind_length (by simp only [List.mem_map]; rintro _ ⟨x, -, rfl⟩; exact stepStatus_fits x)]
  simp [Function.comp_def, List.map_const']

theorem statusReport_bytes_length (r : StatusReport) : r.bytes.length = 79 := by
  simp only [StatusReport.bytes, List.flatten_cons, List.flatten_nil,
    List.length_append, List.length_nil, oneByte_length, flagByte_length, twoBytes_length,
    behind_byte_length, behind_id_length, behind_steps_length, insertionBytes_length, zeroingBytes_length,
    sticky_byte_length]

@[simp] theorem stepSettings_bytes_length (c : StepSettings) : c.bytes.length = 38 := by
  simp only [StepSettings.bytes, List.flatten_cons, List.flatten_nil,
    List.length_append, List.length_nil, twoBytes_length, oneByte_length]

theorem stepReport_bytes_length (r : StepReport) : r.bytes.length = 173 := by
  have h3 : (behind [optClock r.record.openSince, optClock r.record.closedSince, optClock r.record.discharge]).length
      = 13 := by
    rw [behind_length (by simp [optClock_fits])]; rfl
  simp only [StepReport.bytes, StepReport.recordBytes, List.flatten_cons, List.flatten_nil,
    List.length_append, List.length_nil, stepByte_length, oneByte_length,
    flagByte_length, twoBytes_length, longBytes_length, behind_clock_length, behind_id_length,
    stepSettings_bytes_length, closeListBytes_length, latestBytes_length, stage_bytes_length, zeroingBytes_length, h3]

theorem filterReport_bytes_length (r : FilterReport) : r.bytes.length = 31 := by
  have h2 : (behind [⟨2, r.record.level.map wordBytes⟩, ⟨1, r.record.asserted.map flagByte⟩]).length = 4 := by
    rw [behind_length (by
      simp only [List.mem_cons, List.not_mem_nil, or_false, forall_eq_or_imp, forall_eq]
      exact ⟨optField_fits _ _ _ fun _ => rfl, optField_fits _ _ _ fun _ => rfl⟩)]
    rfl
  simp only [FilterReport.bytes, FilterSettings.bytes, List.flatten_cons, List.flatten_nil,
    List.length_append, List.length_nil, oneByte_length, flagByte_length,
    twoBytes_length, ordersBytes_length, behind_clock_length, behind_id_length, h2]

theorem entry_bytes_length (e : Entry) : e.bytes.length = 11 := by
  rw [Entry.bytes, List.length_append, behind_length (by
    simp only [List.mem_cons, List.not_mem_nil, or_false, forall_eq_or_imp, forall_eq]
    exact ⟨optByte_fits _, optField_fits _ _ _ fun _ => rfl, optField_fits _ _ _ fun _ => rfl, optClock_fits _⟩)]
  rfl

theorem eventRec_bytes_length (e : EventRec) : e.bytes.length = 17 := rfl

theorem vetoReport_bytes_length (r : VetoReport) : r.bytes.length = r.entries.length * 11 + 4 := by
  have h2 : (behind [⟨1, r.windowId.map fun i => [i]⟩, optByte (r.windowComb.map BitVec.toNat)]).length = 3 := by
    rw [behind_length (by
      simp only [List.mem_cons, List.not_mem_nil, or_false, forall_eq_or_imp, forall_eq]
      exact ⟨optField_fits _ _ _ fun _ => rfl, optByte_fits _⟩)]
    rfl
  simp [VetoReport.bytes, flatMap_length_of 11 r.entries _ entry_bytes_length, h2]

/-- A payload fits the envelope when it carries at most 8 records and at most 16 entries, as EVENTS and VETO-READ
allow (R171, R175). -/
theorem payload_fits (r : Reply)
    (he : ∀ l n g m, r.body = .events l n g m → l.length ≤ 8)
    (hv : ∀ v, r.body = .veto v → v.entries.length ≤ 16) : r.payload.length ≤ 250 := by
  cases hb : r.body with
  | empty => simp [Reply.payload, hb, ReplyBody.bytes]
  | operation i => simp [Reply.payload, hb, ReplyBody.bytes]
  | status x => simp [Reply.payload, hb, ReplyBody.bytes, statusReport_bytes_length]
  | measure c g =>
    have hc : (behind [⟨49, c.map CycleFrame.bytes⟩]).length = 50 := by
      rw [behind_length (by simpa using optField_fits 49 c _ cycleFrame_bytes_length)]; rfl
    have hg : (behind [⟨106, g.map SpectrumFrame.bytes⟩]).length = 107 := by
      rw [behind_length (by simpa using optField_fits 106 g _ spectrumFrame_bytes_length)]; rfl
    simp [Reply.payload, hb, ReplyBody.bytes, hc, hg]
  | step x => simp [Reply.payload, hb, ReplyBody.bytes, stepReport_bytes_length]
  | filter x => simp [Reply.payload, hb, ReplyBody.bytes, filterReport_bytes_length]
  | veto v =>
    have := hv v hb
    simp [Reply.payload, hb, ReplyBody.bytes, vetoReport_bytes_length]; omega
  | events l n g m =>
    have := he l n g m hb
    simp [Reply.payload, hb, ReplyBody.bytes, flatMap_length_of 17 l _ eventRec_bytes_length]; omega
  | waitEvent k c t n => simp [Reply.payload, hb, ReplyBody.bytes]
  | waitTimeout n => simp [Reply.payload, hb, ReplyBody.bytes]

end Sys2Proof.Machine
end

