-- ==== Sys2Proof/Tests/Slice0.lean ====
section
/-! SUPPORT. The tests of the model: ill-formed commands, the manual's worked cases, single steps, and a witness for the hypotheses of each statement. -/

namespace Sys2Proof.Tests

-- One proof at a time: the kernel evaluations of many tests at once ask for too many threads.
set_option Elab.async false

open Sys2Proof.Machine

/-! ### Ill-formed commands, one for each check -/

/-- A phase of a cycle: fundamental in vu, with no current. -/
def vu (v : Nat) : PhaseInput := ⟨false, v * 1000, 0, 0, 0⟩

/-- A cycle of three phases with quiet neutrals. -/
def cycleOf (a b c : PhaseInput) : CycleInput := ⟨a, b, c, Vector.replicate 6 ⟨false, 0, 0⟩⟩

/-- A payload of 251 bytes does not fit a frame (Table 10-1); one of 250 does. -/
theorem test_payload_too_long : (Instr.measure 1 (List.replicate 251 0)).wf = false
    ∧ (Instr.measure 1 (List.replicate 250 0)).wf = true := by decide +kernel

/-- The target byte counts: 250 bytes after it do not fit. -/
theorem test_acknowledge_payload_too_long : (Instr.acknowledgeYard 1 (List.replicate 250 0)).wf = false := by
  decide +kernel

/-- An angle of a full turn is out of range. -/
theorem test_angle_out_of_turn : (Instr.cycleFrame (cycleOf { vu 10000 with angle := 360000 } (vu 0) (vu 0))).wf = false
    ∧ (Instr.cycleFrame (cycleOf { vu 10000 with angle := 359999 } (vu 0) (vu 0))).wf = true := by decide +kernel

/-- UNKNOWN_REQUEST names no kind of Table 10-4: 0x15 is one, 0x16 and 0 are none. -/
theorem test_unknown_request_of_a_known_kind : (Instr.unknownRequest 0x15 1 []).wf = false
    ∧ (Instr.unknownRequest 0x16 1 []).wf = true ∧ (Instr.unknownRequest 0 1 []).wf = true := by decide +kernel

/-- No word spells a command: the table gives no row bits. -/
theorem test_no_word_spells_a_command : decodeTableWord 16 0xA5 = none
    ∧ State.reset.withFetchWord 16 0xA5 = State.reset := by decide +kernel

/-! ### The manual's worked cases -/

/-- Figure 1-3: a 1 000 ms deadline set at 4 294 967 000 is 704; not passed at 703, passed at 704. -/
theorem test_deadline_across_the_wrap : addMs 4294967000 1000 = 704 ∧ passed 4294967000 704 = false
    ∧ passed 4294967295 704 = false ∧ passed 703 704 = false ∧ passed 704 704 = true ∧ passed 705 704 = true := by
  decide +kernel

/-- The control settings of section 1.8.1. -/
def lagging : ControlSettings := { ControlSettings.default with ldcR := 300, ldcX := 1200, urgentMargin := 300 }

/-- The frame of section 1.8.1 with a given IQ. -/
def laggingFrame (iq : Int) : CycleFrame :=
  { (default : CycleFrame) with
    va := ⟨.good, 10290⟩, vb := ⟨.good, 10312⟩, vc := ⟨.good, 10334⟩, valid := 3, ip := 6000, iq := iq }

/-- Section 1.8.1: Vc 9 832 under AVERAGE, 9 854 under HIGHEST, 9 810 under LOWEST, IN band. -/
theorem test_case_1_8_1 : rawVoltage lagging .average (laggingFrame 2500) = 9832
    ∧ rawVoltage lagging .highest (laggingFrame 2500) = 9854 ∧ rawVoltage lagging .lowest (laggingFrame 2500) = 9810
    ∧ bandOf lagging 9832 = .inBand ∧ bandOf lagging 9799 = .low ∧ bandOf lagging 10200 = .inBand := by
  decide +kernel

/-- Section 1.8.2: IQ -2 500 gives 10 432, HIGH and not urgent; IQ -4 000 gives 10 612, URGENT-HIGH. -/
theorem test_case_1_8_2 : rawVoltage lagging .average (laggingFrame (-2500)) = 10432 ∧ bandOf lagging 10432 = .high
    ∧ urgentOf lagging 10432 = false ∧ rawVoltage lagging .average (laggingFrame (-4000)) = 10612
    ∧ urgentOf lagging 10612 = true := by decide +kernel

/-- Section 1.8.3: -1 330 400 over 10 000 rounds toward zero to -133. -/
theorem test_case_1_8_3 :
    lineDrop { lagging with ldcR := 500, ldcX := 200 } (-1234) (-3567) = -133 := by decide +kernel

/-- Sections 1.8.4 and 1.8.6: two valid phases, the average floored, VT-LOSS; a dead frame has none. -/
theorem test_case_1_8_4_and_1_8_6 :
    (formCycle 0 0 (cycleOf (vu 0) (vu 10001) (vu 10000))).average = 10000
    ∧ (formCycle 0 0 (cycleOf (vu 0) (vu 10001) (vu 10000))).valid = 2
    ∧ (formCycle 0 0 (cycleOf (vu 0) (vu 10001) (vu 10000))).vtLoss = true
    ∧ (formCycle 0 0 (cycleOf (vu 1800) (vu 10001) (vu 10000))).average = 7267
    ∧ (formCycle 0 0 (cycleOf (vu 1800) (vu 10001) (vu 10000))).vtLoss = true
    ∧ (formCycle 0 0 (cycleOf (vu 0) (vu 0) (vu 0))).usable = false
    ∧ (formCycle 0 0 (cycleOf (vu 0) (vu 0) (vu 0))).vtLoss = false := by decide +kernel

/-- The note of section 1.2: one phase at 6 900 vu and two at 0 is not VT-LOSS; two healthy and one at 1 500 is. -/
theorem test_vt_loss_notes : (formCycle 0 0 (cycleOf (vu 6900) (vu 0) (vu 0))).vtLoss = false
    ∧ (formCycle 0 0 (cycleOf (vu 7000) (vu 7000) (vu 1500))).vtLoss = true := by decide +kernel

/-- R4: a phasor along a reference at 90, 180 and 270 degrees lies along x; one that falls out of range is clamped and
CLIPPED. -/
theorem test_neutral_reference : formNeutral 0 ⟨false, 310, -20⟩ = ⟨310, -20, false⟩
    ∧ formNeutral 90000 ⟨false, 0, 50⟩ = ⟨50, 0, false⟩ ∧ formNeutral 180000 ⟨false, -50, 0⟩ = ⟨50, 0, false⟩
    ∧ formNeutral 270000 ⟨false, 0, -50⟩ = ⟨50, 0, false⟩
    ∧ formNeutral 180000 ⟨false, -32768, 0⟩ = ⟨32767, 0, true⟩ := by decide +kernel

/-- R4: (1000, 0) referenced to 60 degrees is (500, -866.03): the first component is whole and given exactly, the second
is next to it whatever the free choice. -/
theorem test_neutral_at_sixty_degrees : ∀ pick ∈ [(-100000 : Int), 0, 100000],
    turnedPart 60000 1000 0 pick = 500 ∧ turnedPart 60000 0 (-1000) pick ∈ [(-867 : Int), -866] := by decide +kernel

/-- R4: (0, 6) referenced to 30 degrees has x 3, and (7, -7) referenced to 45 degrees has x 0, whatever the free choice;
(1, 0) referenced to 60 degrees has x 0.5, which may go either way. -/
theorem test_neutral_at_thirty_and_forty_five_degrees : ∀ pick ∈ [(-100000 : Int), 0, 100000],
    turnedPart 30000 0 6 pick = 3 ∧ turnedPart 45000 7 (-7) pick = 0 ∧ turnedPart 60000 1 0 pick ∈ [(0 : Int), 1] := by
  decide +kernel

/-- R4: VB advanced by 120 degrees, VC by 240, and the carried reference with no valid phase. -/
theorem test_reference_choice :
    selectRef 7 (cycleOf { vu 0 with angle := 5 } { vu 10000 with angle := 330000 } (vu 10000)) = 90000
    ∧ selectRef 7 (cycleOf (vu 0) (vu 0) { vu 10000 with angle := 30000 }) = 270000
    ∧ selectRef 7 (cycleOf (vu 0) (vu 0) (vu 0)) = 7 := by decide +kernel

/-- Table 5-3: the four rows of learning with estimate 260. -/
theorem test_table_5_3 :
    clampEstimate .default (learned 260 (measuredChange .raise 9832 10105)) = 263
    ∧ clampEstimate .default (learned 260 (measuredChange .lower 10400 10150)) = 257
    ∧ clampEstimate .default (learned 260 (measuredChange .raise 9900 9880)) = 190
    ∧ clampEstimate .default (learned 260 (measuredChange .raise 9900 7000)) = 50 := by decide +kernel

/-- Section 6.7: RSS of 410 and 95 is 420, SUM 505; asserts at 400, not inverted, not at 421. -/
theorem test_case_6_7 : rawLevel .rss [410, 95] = 420 ∧ rawLevel .sum [410, 95] = 505
    ∧ asserts { FilterSettings.default with threshold := 400 } 420 true = true
    ∧ asserts { FilterSettings.default with threshold := 400, invert := true } 420 true = false
    ∧ asserts { FilterSettings.default with threshold := 400 } 420 false = false
    ∧ asserts { FilterSettings.default with threshold := 421 } 420 true = false := by decide +kernel

/-- A spectrum with levels at orders 5 and 7. -/
def orders57 (a b : Nat) : Vector Nat 24 := ((Vector.replicate 24 0).set 3 a).set 5 b

/-- Section 7.7, events 4, 5 and 7: ratios 227, 37 and 305, order 5 each time. -/
theorem test_case_7_7 : judge 150 (orders57 180 90) (orders57 410 95) = some ⟨5, 227, 410⟩
    ∧ judge 150 (orders57 400 150) (orders57 150 70) = some ⟨5, 37, 150⟩
    ∧ judge 150 (orders57 170 85) (orders57 520 160) = some ⟨5, 305, 520⟩ := by decide +kernel

/-- Section 7.7: CLEAR becomes SUSPECT at 227, SUSPECT becomes VETOED at 305, and 37 changes nothing. -/
theorem test_case_7_7_verdicts : verdict .default 6 .clear (some ⟨5, 227, 410⟩) = .suspect ⟨5, 227, 410⟩
    ∧ verdict .default 6 .suspect (some ⟨5, 305, 520⟩) = .vetoed ⟨5, 305, 520⟩
    ∧ verdict .default 2 .clear (some ⟨5, 37, 150⟩) = .noChange := by decide +kernel

/-- Section 8.7: the compensated values with REF-V 10 050 and 10 000, the clipped magnitude and the dropout
levels. -/
theorem test_case_8_7 :
    evaluate { StepSettings.default with inherentX := 120, inherentY := -45, refV := 10050 } 10320 ⟨310, -20, false⟩
      = ⟨123, -46, 187, 26, 188⟩
    ∧ (evaluate { StepSettings.default with inherentX := 120, inherentY := -45 } 10320 ⟨310, -20, false⟩).u = 187
    ∧ (evaluate .default 10320 ⟨310, -20, true⟩).u = 46340 ∧ dropoutLevel 150 = 142 ∧ dropoutLevel 250 = 237 := by
  decide +kernel

/-- Section 8.7: the alarm stage over the frames that follow. -/
theorem test_case_8_7_alarm_stage : Stage.onFrame 150 90030000 188 .quiet = .pickingUp 90030000
    ∧ Stage.onFrame 150 0 145 (.pickingUp 90030000) = .pickingUp 90030000
    ∧ Stage.onFrame 150 0 141 (.pickingUp 90030000) = .quiet ∧ Stage.onFrame 150 0 149 .quiet = .quiet := by
  decide +kernel

/-- Section 8.8: the means of the completed zeroing, halves away from zero. -/
theorem test_case_8_8 : let c := Zeroing.means ⟨3, 16, 16, 1930, -728, 161000, 0⟩ .default
    c.inherentX = 121 ∧ c.inherentY = -46 ∧ c.refV = 10063 := by decide +kernel

/-! ### Small states -/

/-- The device at clock 1 000 with the Step Table built and BLOCK low. -/
def base : State :=
  { State.reset with
    clock := 1000
    sm := { State.reset.sm with built := true, establish := none }
    sc := { State.reset.sc with block := ⟨false, some false, none⟩ } }

/-- Change one step record. -/
def onStep (k : StepNo) (f : StepRec → StepRec) (s : State) : State :=
  { s with sm := { s.sm with steps := s.sm.steps.set k (f s.sm.steps[k]) } }

/-- A step in a state with its contacts at a position. -/
def stands (k : StepNo) (st : StepState) (p : Sensed) (s : State) : State :=
  onStep k (fun r => { r with state := some st, sensed := some p }) s

/-- An operation record of one step, class CONTROL. -/
def opOn (k : StepNo) (kind : OpKind) : OpRec := ⟨7, kind, bit k, .control, .raise, .vc, [], 1, 900⟩

/-- The operation ACTIVE, nothing arrived, its timeout at 1 000. -/
def running (o : OpRec) (s : State) : State :=
  { s with sc := { s.sc with active := some ⟨o, 800, Vector.replicate 6 (some .opened), 0, 1000⟩ } }

/-- Change the settings of one step. -/
def setting (k : StepNo) (f : StepSettings → StepSettings) (s : State) : State :=
  { s with settings := { s.settings with steps := s.settings.steps.set k (f s.settings.steps[k]) } }

/-- Put the Voltage Controller into a state. -/
def vcIn (v : VcState) (s : State) : State := { s with vc := { s.vc with mode := .auto, state := v } }

/-- Put a filter into a state, enabled. -/
def filtIn (f : FilterNo) (v : FilterState) (a : Action) (s : State) : State :=
  { s with
    hs := { s.hs with filters := s.hs.filters.set f { s.hs.filters[f] with state := v } }
    settings := { s.settings with
      enabled := s.settings.enabled ||| BitVec.twoPow 8 f.val
      filters := s.settings.filters.set f { s.settings.filters[f] with action := a } } }

/-- The latest Cycle Frame is one of three equal phases. -/
def framed (v : Nat) (s : State) : State :=
  { s with mu := { s.mu with cycle := some (formCycle 980 0 (cycleOf (vu v) (vu v) (vu v))) } }

/-! ### Single steps -/

/-- Section 3.8 at event 3: operation 37 closes step 4, record 38 waits to open step 2, and OV2's pickup expires. -/
def rejection : State :=
  let s := stands 1 .closed .closed (stands 4 .closed .closed (stands 3 .closing .transit base))
  { s with
    sm := { s.sm with insertion := [4, 1] }
    yp := { s.yp with ov2 := .pickingUp 1000 }
    sc := { s.sc with
      nextId := 39
      active := some ⟨{ opOn 3 .close with id := 37 }, 970, Vector.replicate 6 (some .opened), 0, 1170⟩
      waiting := [{ opOn 1 .open_ with id := 38, cls := .directed, requester := .li }] } }

/-- Section 3.8, event 3: operation 39 opens step 4, record 40 waits for steps 2 and 5, the list is 5, 2, 4. -/
theorem test_case_3_8 : (ov2PickupExpiry rejection).sc.active.map (fun a => (a.op.id, a.op.kind, a.op.steps))
      = some (39, .open_, bit 3)
    ∧ (ov2PickupExpiry rejection).sc.waiting.map (fun o => (o.id, o.steps)) = [(40, 18)]
    ∧ (ov2PickupExpiry rejection).sm.insertion = [4, 1, 3] ∧ (ov2PickupExpiry rejection).energized = 26
    ∧ (ov2PickupExpiry rejection).sc.rest = none := by decide +kernel

/-- Section 3.8: the records of that event, after YARD-TRIP, stand in the order the sequence lists. -/
theorem test_case_3_8_events : ((ov2PickupExpiry rejection).li.events.drop 2).map (fun e => (e.kind, e.opId))
    = [(.yardTrip, none), (.opAborted, some 37), (.opStart, some 39), (.opCancelled, some 38)] := by decide +kernel

/-- Section 3.8, events 8 and 9: an open that fails locks its step, and the late opening turns OPEN-FAIL into
SLOW-OPEN and releases BKTRIP. -/
theorem test_case_3_8_slow_open :
    let s := operationTimeout (running (opOn 1 .open_) (stands 1 .opening .transit base))
    let t := sensedChange 1 .opened s
    s.sc.bktrip = true ∧ (s.stp 1).locks = LockReason.openFail.mask ∧ mem s.energized 1 = true
      ∧ t.sc.bktrip = false ∧ (t.stp 1).locks = LockReason.slowOpen.mask ∧ mem t.energized 1 = false := by
  decide +kernel

/-- R165 by hand: byte 0x01 into a cleared register leaves x^12 + x^5 + 1, and 0x80 the same shifted on seven
places; over the ASCII digits 1 to 9 the code with this generator and start is known to give 0x29B1. -/
theorem test_check_code : crc16 [] = 0xFFFF#16 ∧ crcByte 0 0x01 = 0x1021#16 ∧ crcByte 0 0x80 = 0x9188#16
    ∧ crc16 [0x31, 0x32, 0x33, 0x34, 0x35, 0x36, 0x37, 0x38, 0x39] = 0x29B1#16 := by decide +kernel

/-- Table 10-4: a MEASURE frame sent byte by byte from HUNT is answered with kind 0x82. -/
theorem test_measure_byte_by_byte :
    let s := (frameBytes 0x02 9 []).foldl (fun s b => byteReceived b s) State.reset
    s.li.rx = .hunt ∧ s.li.replies.map (fun r => (r.kind, r.tag, r.result)) = [(0x82, 9, .ok)] := by decide +kernel

/-- Tables 10-1, 10-3 and R177: an OK to MODE, and a WAIT answered EVENT by RAISE-INHIBITED (kind 24) at 1 000 ms with
one record queued; the checks are computed by hand from R165. -/
theorem test_reply_bytes : Reply.frame ⟨0x87, 9, .ok, .empty⟩ = [0xA5, 1, 0x87, 9, 0, 0xF6, 0x26]
    ∧ Reply.frame ⟨0x93, 4, .event, .waitEvent .raiseInhibited .info 1000 1⟩
      = [0xA5, 8, 0x93, 4, 12, 24, 0, 0, 0, 3, 232, 1, 0x4E, 0x08] := by decide +kernel

/-- R168: an absent field is carried as 0 behind its presence bit. -/
theorem test_absent_fields : behind [optClock none, optClock (some 258), optByte (some 7)]
    = [6, 0, 0, 0, 0, 0, 0, 1, 2, 7] := by decide +kernel

/-- R10: a FREQUENCY change accepted after the window's Spectrum Frame leaves the timebase for one more cycle. -/
theorem test_frequency_after_the_spectrum :
    let u (taken : Bool) : MeasUnit := { base.mu with freqChange := true, spectrumTaken := taken }
    (u true).restarts = false ∧ (u false).restarts = true := by decide +kernel

/-- R99: a lower timer that runs is shortened by the URGENT-DELAY it started with, 10 s, not by the new 50 s. -/
theorem test_urgent_delay_of_the_start :
    let s := vcIn (.lowerTiming 61000) base
    let t := { s with
      vc := { s.vc with frame := .usable, band := .high, urgentHigh := true, urgentHeld := 10 }
      settings := { s.settings with control := { s.settings.control with urgentDelay := 50 } } }
    (timersOnFrame t).vc.state = .lowerTiming 11000 := by decide +kernel

/-! ### Witnesses: states and operands that meet the hypotheses of each statement, clause by clause -/

theorem witness_StepRunsTheFrontCommand :
    ({ base with pending := [.establishLimit, .raiseExpiry] } : State).pending = .establishLimit :: [.raiseExpiry] := rfl

theorem witness_IdleStepQueuesADueEventOrCountsAMillisecond :
    State.reset.pending = [] ∧ dueEvents State.reset = [] ∧ dueEvents { State.reset with clock := 10 } ≠ [] := by
  decide +kernel

theorem witness_DeadlineComparisonIsExact : (0 ≤ 86400000) ∧ 86400000 ≤ 86400000 ∧ 2 ^ 31 - 1 < 2 ^ 31 := by decide

theorem witness_IntegerSquareRootIsExact : 2 ^ 64 - 1 < 2 ^ 64 := by decide

/-- A store whose slot B holds the newest valid image. -/
def stored (s : State) : State := { s with store := { s.store with slotB := ⟨s.settings, 1, true⟩ } }

theorem witness_ColdReset : State.reset.store.image = none ∧ (stored base).store.image = some base.settings := by
  decide +kernel

theorem witness_VtLossNeedsAFailedAndAnotherHealthyPhase : base.mu.cycle = none ∧ (framed 10000 base).mu.cycle ≠ none
    ∧ (formCycle 0 0 (cycleOf (vu 1999) (vu 7000) (vu 7000))).vtLoss = true
    ∧ (formCycle 0 0 (cycleOf (vu 2000) (vu 7000) (vu 7000))).vtLoss = false := by decide +kernel

/-- The device at the very end of its cycle. -/
def atEnd (s : State) : State := { s with mu := { s.mu with cycleEnd := 1000 } }

theorem witness_CycleFrame : passed base.clock (atEnd base).mu.cycleEnd = true ∧ (atEnd base).mu.freqChange = false
    ∧ { (atEnd base).mu with freqChange := true }.freqChange = true ∧ (atEnd base).mu.spectrumTaken = false
    ∧ { (atEnd base).mu with spectrumTaken := true }.spectrumTaken = true := by decide +kernel

theorem witness_CycleFrameReference :
    ∀ a ∈ [0, 30000, 45000, 60000, 90000, 180000, 270000], ∃ t,
      execCycleFrame (cycleOf { vu 10000 with angle := a } (vu 0) (vu 0)) (atEnd base) = .next t
        ∧ t.mu.angleRef = a := by
  intro a h; fin_cases h <;> exact ⟨_, rfl, by decide +kernel⟩

/-- At 60 degrees the component x of (1000, 0) is the whole number 500. -/
theorem witness_CycleFrameReferenceWhole :
    ((500 : Int) : ℝ) = (1000 : Int) * Real.cos (Real.pi / 3) + (0 : Int) * Real.sin (Real.pi / 3) := by
  rw [Real.cos_pi_div_three]; norm_num

/-- R2: below 100 vu a phase is ABSENT; the fundamental is rounded to the nearest vu; over 20 000 it is clamped, at full
scale CLIPPED. -/
theorem test_phase_values : let p (v : Nat) (full : Bool) := (formPhase ⟨full, v, 0, 0, 0⟩)
    p 99999 false = ⟨.absent, 0⟩ ∧ p 100000 false = ⟨.good, 100⟩ ∧ p 10000499 false = ⟨.good, 10000⟩
      ∧ p 10000500 false = ⟨.good, 10001⟩ ∧ p 20000500 false = ⟨.good, 20000⟩ ∧ p 0 true = ⟨.clipped, 20000⟩ := by
  decide +kernel

/-- VT-LOSS before and on the frame in every pairing, the inputs that clamp, and the window before and at its end. -/
theorem witness_CycleFrameReportsAndCounts :
    let f (a b c : Nat) := formCycle 1000 0 (cycleOf (vu a) (vu b) (vu c))
    let lost := { atEnd base with mu := { (atEnd base).mu with cycle := some (f 0 10000 10000) } }
    let big := cycleOf { vu 10000 with active := 30001000, reactive := -30001000 } (vu 0) (vu 0)
    let counted (n : Nat) := { atEnd base with mu := { (atEnd base).mu with windowCount := n } }
    base.vtLoss = false ∧ lost.vtLoss = true ∧ (f 0 10000 10000).vtLoss = true ∧ (f 10000 10000 10000).vtLoss = false
      ∧ base.li.events.length ≤ 50 ∧ passed lost.clock lost.mu.cycleEnd = true
      ∧ (formCycle 1000 0 big).ip = 30000 ∧ (formCycle 1000 0 big).iq = -30000
      ∧ (cycleFrame big (atEnd base)).li.sticky.clampSeen = true ∧ 20000 < (20000500 + 500) / 1000
      ∧ (cycleFrame big (counted 8)).mu.windowCount = 9 ∧ (cycleFrame big (counted 9)).mu.windowCount = 0 := by
  decide +kernel

/-- Frames whose control voltage leaves its range on either side (R16), and a component that leaves its range. -/
theorem witness_CycleFrameClamps :
    let s := { atEnd base with settings := { base.settings with control := { base.settings.control with ldcR := 3000 } } }
    let m (v : Nat) (i : Int) := cycleOf { vu v with active := i } (vu 0) (vu 0)
    let raw (v : Nat) (i : Int) := rawVoltage s.settings.control .average (formCycle 1000 0 (m v i))
    passed s.clock s.mu.cycleEnd = true ∧ raw 20000 (-30000000) = 29000 ∧ raw 5000 30000000 = -4000
      ∧ (cycleFrame (m 5000 30000000) s).li.sticky.clampSeen = true
      ∧ evaluate { StepSettings.default with inherentX := -32767 } 10000 ⟨300, 0, false⟩ = ⟨-32767, 0, 32767, 0, 32767⟩
      ∧ 32767 ≠ (300 : Int) - -32767 := by decide +kernel

/-- A sample that waits for operation 7. -/
def smp : Sample := ⟨7, .raise, 0, 10000⟩

/-- A learning window in SETTLING or AFTER-WAIT, opened by operation 7. -/
def windowed (settling : Bool) (s : State) : State :=
  let w : WindowStart := ⟨7, .close, 0, Vector.replicate 24 0⟩
  { s with rl := { s.rl with window := if settling then .settling w 1 9000 else .afterWait w 1 } }

/-- The three frames for a sample and a window: VT-LOSS, no valid phase, and a good one. -/
theorem witness_CycleFrameDiscards : ∀ b ∈ [true, false],
    let s := windowed b (vcIn (.settling smp 9000) (atEnd base))
    let f (a b c : Nat) := formCycle s.clock s.mu.angleRef (cycleOf (vu a) (vu b) (vu c))
    (f 0 10000 10000).vtLoss = true ∧ (f 0 0 0).vtLoss = false ∧ (f 0 0 0).values = []
      ∧ (f 10000 10000 10000).vtLoss = false ∧ (f 10000 10000 10000).values ≠ []
      ∧ s.vc.state = .settling smp 9000 ∧ s.li.events.length ≤ 50
      ∧ (cycleFrame (cycleOf (vu 0) (vu 10000) (vu 10000)) s).rl.window = .none
      ∧ (cycleFrame (cycleOf (vu 0) (vu 0) (vu 0)) s).vc.state = .watch
      ∧ (cycleFrame (cycleOf (vu 10000) (vu 10000) (vu 10000)) s).rl.window = s.rl.window := by decide +kernel

theorem witness_CycleFrameMovesTheTimers :
    let low := cycleOf (vu 9799) (vu 9799) (vu 9799)
    let high := cycleOf (vu 10201) (vu 10201) (vu 10201)
    let urgent := cycleOf (vu 10701) (vu 10701) (vu 10701)
    let out (v : VcState) (m : CycleInput) := (cycleFrame m (vcIn v (atEnd base))).vc
    base.vc.state = .suspended ∧ (vcIn (.awaiting smp) base).vc.state = .awaiting smp
      ∧ (out .watch (cycleOf (vu 9800) (vu 9800) (vu 9800))).band = .inBand
      ∧ (out .watch (cycleOf (vu 0) (vu 0) (vu 0))).frame ≠ .usable
      ∧ (out .watch low).frame = .usable ∧ (out (.raiseTiming 1000) low).band = .low
      ∧ (out .watch high).frame = .usable ∧ (out (.lowerTiming 1000) high).band = .high
      ∧ (out .watch high).urgentHigh = false ∧ (out (.lowerTiming 1000) urgent).urgentHigh = true := by decide +kernel

theorem witness_CycleFrameEvaluatesUnbalance :
    let f (v : Nat) := formCycle 1000 0 (cycleOf (vu v) (vu v) (vu 10000))
    let s := stands 0 .closed .closed base
    (f 10000).values ≠ [] ∧ (s.stp 0).supervised = true ∧ (s.stp 0).inrush = none ∧ (s.stp 0).alarmStage = .quiet
      ∧ (s.stp 0).tripStage = .quiet ∧ (s.cfg 0).tripMode = .latch
      ∧ ((setting 0 (fun c => { c with tripMode := .off }) s).cfg 0).tripMode = .off
      ∧ ((onStep 0 (fun r => { r with alarmStage := .operated, tripStage := .operated }) s).stp 0).alarmStage ≠ .quiet
      ∧ ((onStep 0 (fun r => { r with alarmStage := .operated, tripStage := .operated }) s).stp 0).tripStage ≠ .quiet
      ∧ (s.stp 1).supervised = false ∧ ((onStep 0 (fun r => { r with inrush := some 1000 }) s).stp 0).inrush ≠ none
      ∧ (formCycle 1000 0 (cycleOf (vu 0) (vu 0) (vu 0))).values = [] := by decide +kernel

/-- A zeroing of step 1 with frames taken. -/
def zeroingWith (taken : Nat) : Zeroing := ⟨0, 16, taken, 0, 0, 0, 0⟩

theorem witness_CycleFrameMovesTheZeroing :
    let f (a b c : Nat) := formCycle 1000 0 (cycleOf (vu a) (vu b) (vu c))
    let clipped := { cycleOf (vu 9000) (vu 9000) (vu 9000) with neutrals := Vector.replicate 6 ⟨true, 0, 0⟩ }
    let mean (g : CycleFrame) := g.values.sum / g.values.length
    { base with zeroing := some (zeroingWith 15) }.zeroing = some (zeroingWith 15) ∧ base.li.events.length ≤ 50
      ∧ mean (f 8999 8999 8999) < 9000 ∧ mean (f 9000 9000 9000) = 9000 ∧ mean (f 11000 11000 11000) = 11000
      ∧ 11000 < mean (f 11001 11001 11001) ∧ (f 9000 9000 9000).vtLoss = false
      ∧ mean (f 0 10000 10000) = 10000 ∧ (f 0 10000 10000).vtLoss = true
      ∧ ((f 9000 9000 9000).neutrals[(0 : StepNo)]).clipped = false
      ∧ ((formCycle 1000 0 clipped).neutrals[(0 : StepNo)]).clipped = true ∧ (formCycle 1000 0 clipped).vtLoss = false
      ∧ (zeroingWith 14).taken + 1 < (zeroingWith 14).length ∧ (zeroingWith 15).length ≤ (zeroingWith 15).taken + 1 := by
  decide +kernel

theorem witness_CycleFrameMovesTheYardStages :
    let f (v : Nat) := formCycle 1000 0 (cycleOf (vu v) (vu v) (vu v))
    11001 ∈ (f 11001).values ∧ (∀ v ∈ (f 11000).values, v ≤ 11000) ∧ 12001 ∈ (f 12001).values
      ∧ (f 2999).va.value < 3000 ∧ (f 2999).vtLoss = false ∧ ¬(f 3000).va.value < 3000 ∧ (f 9000).va.value = 9000
      ∧ base.yp.ov1 = .quiet ∧ base.yp.ov2 = .quiet ∧ base.yp.dead = .quiet ∧ base.yp.trip = .normal := by
  decide +kernel

/-- The two causes with the restore condition on the frame and without it. -/
theorem witness_CycleFrameMovesTheYardTripState :
    let at_ (c : TripState) := { atEnd base with yp := { base.yp with trip := c } }
    let after (c : TripState) (v : Nat) := (cycleFrame (cycleOf (vu v) (vu v) (vu v)) (at_ c)).yp.trip
    after (.trippedAuto .deadLine) 9000 = .restoring .deadLine 61000
      ∧ after (.trippedAuto .deadLine) 8999 = .trippedAuto .deadLine
      ∧ after (.restoring .deadLine 5000) 9000 = .restoring .deadLine 5000
      ∧ after (.restoring .deadLine 5000) 8999 = .trippedAuto .deadLine
      ∧ after (.trippedAuto .ov2) 11000 = .restoring .ov2 61000
      ∧ after (.trippedAuto .ov2) 11001 = .trippedAuto .ov2 ∧ after (.trippedAuto .ov2) 0 = .trippedAuto .ov2
      ∧ after (.restoring .ov2 5000) 11000 = .restoring .ov2 5000
      ∧ after (.restoring .ov2 5000) 11001 = .trippedAuto .ov2 := by decide +kernel

/-- Quiet measured quantities of a spectrum window. -/
def quiet : SpectrumInput :=
  let v : VoltageSpectrumInput := ⟨Vector.replicate 24 0, true⟩
  let q : CurrentSpectrumInput := ⟨100000, Vector.replicate 24 0⟩
  ⟨v, v, v, q, q, q⟩

theorem witness_SpectrumFrameIsHeldAndSetsTheFilterLevels :
    let owed := { base with mu := { base.mu with owed := some ⟨true, true, true⟩ } }
    let last := { base with mu := { base.mu with cycleEnd := 1000, windowCount := 9 } }
    windowReady quiet owed = some ⟨true, true, true⟩ ∧ windowReady quiet last = some ⟨true, true, true⟩
      ∧ (filtIn 7 .quiet .alarm owed).isEnabled 7 = true ∧ owed.isEnabled 0 = false := by decide +kernel

/-- The levels and fundamentals that clamp (R8), and a filter's sum that does (R103). -/
theorem witness_SpectrumFrameClamps :
    let q := { quiet.qa with fundamental := 30000500, levels := quiet.qa.levels.set 3 10001000 }
    let m := { quiet with va := { quiet.va with levels := quiet.va.levels.set 3 10001000 }, qa := q }
    let s := { base with mu := { base.mu with owed := some ⟨true, false, false⟩ } }
    windowReady m s = some ⟨true, false, false⟩ ∧ 10000 < m.va.levels[(3 : Fin 24)] / 1000
      ∧ 100000 ≤ q.fundamental ∧ 10000 < q.levels[(3 : Fin 24)] / 1000 ∧ 30000 < (q.fundamental + 500) / 1000
      ∧ 20000 < rawLevel .sum [10000, 10000, 1] := by decide +kernel

theorem witness_FiltersMoveOnASpectrumFrame :
    let owed := { base with mu := { base.mu with owed := some ⟨true, true, true⟩ } }
    owed.sc.active = none ∧ owed.sc.waiting = [] ∧ owed.rl.window = .none
      ∧ (∀ st ∈ [FilterState.quiet, .pickingUp 1000, .active, .dropping 1000, .held],
        ((filtIn 7 st .removeLast owed).filt 7).state = st ∧ ((filtIn 7 st .removeLast owed).fcfg 7).action = .removeLast)
      ∧ (base.fcfg 7).threshold = 800 ∧ (base.fcfg 7).invert = false ∧ (base.fcfg 7).qualifier = .always
      ∧ ({ FilterRec.quiet with removal := Removal.complete } : FilterRec).removal = .complete
      ∧ (FilterRec.quiet).removal = .none ∧ (base.fcfg 7).response = .selfReset := by decide +kernel

/-- A contact input of a step with a change pending that has just lasted its time. -/
def pendingA (s : State) : State :=
  onStep 0 (fun r => { r with
    posA := ⟨true, some false, some 1000⟩
    posB := ⟨false, some false, none⟩
    sensed := some .transit }) s

theorem witness_ContactFilterExpiryMovesTheSensedPosition :
    due base.clock (((pendingA base).stp 0).contact .posA).deadline = true
      ∧ ((contactFilterExpiry 0 .posA (pendingA base)).stp 0).posA.filtered = some true
      ∧ ((contactFilterExpiry 0 .posA (pendingA base)).stp 0).posB.filtered = some false
      ∧ (pendingA base).sm.built = true
      ∧ ((contactFilterExpiry 0 .posA (pendingA base)).stp 0).sensed = some .closed
      ∧ ((pendingA base).stp 0).sensed ≠ some .closed := by decide +kernel

/-- Before the build: POS-A of step 1 is the last input not established, or POS-B of step 2 is missing besides. -/
def lastInput (missing : Bool) (p : Sensed) : State :=
  let a := decide (p = .closed ∨ p = .invalid)
  let b := decide (p = .opened ∨ p = .invalid)
  let s := { base with sm := { base.sm with
    built := false
    steps := base.sm.steps.map fun r => { r with posA := ⟨a, some a, none⟩, posB := ⟨b, some b, none⟩, sensed := some p } } }
  onStep 0 (fun r => { r with posA := ⟨a, none, some 1000⟩, sensed := none })
    (if missing then onStep 1 (fun r => { r with posB := ⟨b, none, some 1001⟩ }) s else s)

theorem witness_ContactFilterExpiryBuildsTheStepTable : ∀ p ∈ [Sensed.opened, .closed, .transit, .invalid],
    let s := lastInput false p
    due s.clock ((s.stp 0).contact .posA).deadline = true ∧ s.sm.built = false
      ∧ (∀ j : StepNo, ((s.stp j).contact .posB).filtered ≠ none ∧ (j ≠ 0 → ((s.stp j).contact .posA).filtered ≠ none))
      ∧ s.sc.active = none ∧ s.sc.waiting = [] ∧ s.sm.insertion = [] ∧ s.li.events.length ≤ 50
      ∧ (∀ j, (s.stp j).state = none ∧ (s.stp j).locks = 0 ∧ (s.stp j).watch = none)
      ∧ (contactFilterExpiry 0 .posA s).sm.built = true ∧ ((contactFilterExpiry 0 .posA s).stp 0).sensed = some p
      ∧ (((lastInput true p).stp 1).contact .posB).filtered = none
      ∧ (contactFilterExpiry 0 .posA (lastInput true p)).sm.built = false := by decide +kernel

theorem witness_ContactFilterExpiryBeforeTheBuild : InsertionLaw (lastInput true .closed) := by
  unfold InsertionLaw; decide +kernel

/-- A step whose POS-A has just fallen and whose POS-B is high: its contacts arrive at OPEN. -/
def openingUp (st : StepState) (p : Sensed) (s : State) : State :=
  onStep 0 (fun r => { r with posA := ⟨false, some true, some 1000⟩, posB := ⟨true, some true, none⟩ }) (stands 0 st p s)

theorem witness_ContactFilterExpiryMovesTheState :
    base.sc.active = none ∧ base.li.events.length ≤ 50
      ∧ (∀ st ∈ [StepState.ready, .locked, .closed, .cooling, .offline],
        let s := openingUp st .transit base
        due s.clock ((s.stp 0).contact .posA).deadline = true ∧ (s.stp 0).state = some st
          ∧ ((contactFilterExpiry 0 .posA s).stp 0).sensed = some .opened)
      ∧ ((openingUp .closed .closed base).stp 0).sensed = some .closed
      ∧ hasLock LockReason.openFail.mask .openFail = true := by decide +kernel

/-- Step 1 of a group OPEN of the steps 1 and 2 arrives, step 2 missing, with a sample and a window to discard. -/
theorem witness_ContactFilterExpiryDiscards : ∀ b ∈ [true, false],
    let s := { windowed b (vcIn (.settling smp 9000) (openingUp .opening .transit base)) with
      sc := (running { opOn 0 .open_ with steps := 3 } base).sc }
    let t := contactFilterExpiry 0 .posA s
    due s.clock ((s.stp 0).contact .posA).deadline = true ∧ s.sm.built = true ∧ s.li.events.length ≤ 50
      ∧ s.sc.active.map (fun a => (a.op.kind, a.op.steps, a.missing)) = some (.open_, 3, 3)
      ∧ mem (3 : Comb) 0 = true ∧ mem (3 : Comb) 1 = true ∧ (s.stp 0).sensed = some .transit
      ∧ (t.stp 0).sensed = some .opened ∧ t.sc.active.map (fun a => a.arrived) = some 1
      ∧ s.vc.state = .settling smp 9000 ∧ t.vc.state = .watch ∧ t.rl.window = .none := by decide +kernel

theorem witness_EstablishLimitBuildsTheStepTable :
    let s := { State.reset with clock := 500 }
    due 500 s.sm.establish = true
      ∧ ((State.reset.stp 0).contact .posA).filtered = none
      ∧ (((pendingA base).stp 0).contact .posB).filtered ≠ none
      ∧ s.sm.built = false ∧ s.sc.active = none ∧ s.sc.waiting = [] ∧ s.sm.insertion = [] ∧ s.li.events.length ≤ 50
      ∧ (∀ k, (s.stp k).state = none ∧ (s.stp k).locks = 0 ∧ (s.stp k).watch = none)
      ∧ ∀ a b : Bool, ((establishLimit (onStep 5 (fun r => { r with
          posA := { r.posA with raw := a }, posB := { r.posB with raw := b } }) s)).stp 5).sensed
        = formSensed (some a) (some b) := by decide +kernel

theorem witness_BlockInputIsFilteredAndReported :
    let s := { base with sc := { base.sc with block := ⟨true, some false, some 1000⟩ } }
    let r := { base with sc := { base.sc with block := ⟨false, some false, some 1000⟩ } }
    due s.clock s.sc.block.deadline = true ∧ (blockFilterExpiry s).blocked ≠ s.blocked
      ∧ due r.clock r.sc.block.deadline = true ∧ (blockFilterExpiry r).blocked = r.blocked := by decide +kernel

/-- A step away from its rest position whose watch has just run out. -/
def watched (st : StepState) (p : Sensed) : State :=
  onStep 0 (fun r => { r with watch := some 1000 }) (stands 0 st p base)

theorem witness_PositionWatchExpiryFollowsItsTable :
    ∀ st ∈ [StepState.closed, .ready, .cooling, .offline], ∀ p ∈ [Sensed.opened, .closed, .transit, .invalid],
      due 1000 ((watched st p).stp 0).watch = true ∧ ((watched st p).stp 0).locks = 0
        ∧ ((watched st p).stp 0).state = some st ∧ ((watched st p).stp 0).sensed = some p := by decide +kernel

theorem witness_PositionWatchExpiryAtRest : InsertionLaw (watched .ready .opened) := by unfold InsertionLaw; decide +kernel

/-- A count at its top stays, and one below it goes there (Table 2-1). -/
theorem witness_PositionWatchExpiryCounts : ∀ n ∈ [2 ^ 32 - 2, 2 ^ 32 - 1],
    ((positionWatchExpiry 0 (onStep 0 (fun r => { r with openCount := n }) (watched .closed .opened))).stp 0).openCount
        = 2 ^ 32 - 1
      ∧ (watched .closed .opened).li.events.length ≤ 50 := by decide +kernel

theorem witness_DischargeExpiryAndListLeaveExpiry :
    let s := onStep 5 (fun r => { r with
        discharge := some 1000
        minClosed := some 1000
        inrush := some 1000
        closeList := [1000]
        leave := some 1000 }) (setting 5 (fun c => { c with closeLimit := 1 }) base)
    due s.clock (s.stp 5).discharge = true ∧ s.sc.retries[(5 : StepNo)] = none
      ∧ due s.clock (s.stp 5).leave = true ∧ s.resting 5 = true ∧ (closeListLeaveExpiry 5 s).resting 5 = false
      ∧ s.resting 4 = false ∧ due s.clock (s.stp 5).minClosed = true ∧ due s.clock (s.stp 5).inrush = true := by
  decide +kernel

/-- A COOLING step 1 whose discharge deadline has come, with a pending retry, behind another step's OPEN. -/
def coolingWith (r : Retry) : State :=
  let s := onStep 0 (fun x => { x with discharge := some 1000 }) (stands 5 .opening .closed (stands 0 .cooling .opened base))
  running (opOn 5 .open_) { s with sc := { s.sc with retries := s.sc.retries.set 0 (some r) } }

theorem witness_DischargeExpiryWithARetry :
    ∀ r ∈ [Retry.mk .directed .li 2 7 none, Retry.mk .directed .li 2 7 (some 2000)],
      let s := coolingWith r
      due s.clock (s.stp 0).discharge = true ∧ (s.stp 0).state = some .cooling
        ∧ s.sc.retries[(0 : StepNo)] = some r ∧ s.sc.waiting = []
        ∧ s.sc.active.map (fun a => (a.missing, mem a.op.steps 0)) = some (bit 5, false) ∧ bit 5 ≠ 0 := by
  decide +kernel

theorem witness_PlainDeadlinesClearAndDoNoMore :
    let s := { base with
      sc := { base.sc with coils := base.sc.coils.set 5 ⟨some 1000, some 1000⟩ }
      hs := { base.hs with freshness := some 1000 }
      yp := { base.yp with times := [0], leave := some 1000 }
      rl := { base.rl with window := .settling ⟨7, .close, 0, Vector.replicate 24 0⟩ 1 1000 } }
    due s.clock s.sc.coils[(5 : StepNo)].close = true ∧ due s.clock s.sc.coils[(5 : StepNo)].open_ = true
      ∧ due s.clock s.hs.freshness = true ∧ due s.clock s.yp.leave = true
      ∧ s.rl.window = .settling ⟨7, .close, 0, Vector.replicate 24 0⟩ 1 1000 ∧ passed s.clock 1000 = true := by
  decide +kernel

/-- A raw contact change, and the two deadlines of step 6, over an Insertion List that holds its law. -/
theorem witness_PlainEventsKeepTheInsertionList :
    let s := onStep 5 (fun r => { r with minClosed := some 1000, inrush := some 1000 }) base
    InsertionLaw base ∧ InsertionLaw s ∧ due s.clock (s.stp 5).minClosed = true ∧ due s.clock (s.stp 5).inrush = true := by
  unfold InsertionLaw; decide +kernel

theorem witness_FailedOpenLocksItsStepsAndAssertsBktrip :
    let s := running (opOn 1 .open_) (stands 1 .opening .transit base)
    s.sc.active.map (fun a => (a.op.kind, passed s.clock a.timeout, a.missing))
        = some (.open_, true, bit 1) ∧ bit 1 ≠ 0 ∧ s.sc.waiting = []
      ∧ hasLock (s.stp 1).locks .openFail = false
      ∧ s.sc.active.map (fun a => a.op.id) = some (WindowStart.mk 7 .open_ 1 (Vector.replicate 24 0)).id := by
  decide +kernel

/-- A group OPEN of the steps 1 to 3 that the controller awaits and a filter holds: step 1 arrived, 2 and 3 not. -/
def groupFailed : State :=
  let o := { opOn 0 .open_ with steps := 7, joined := [.hs] }
  let s := stands 0 .opening .opened (stands 1 .opening .transit (stands 2 .opening .closed (vcIn (.awaiting smp) base)))
  { s with
    sc := { s.sc with active := some ⟨o, 800, Vector.replicate 6 (some .closed), 1, 1000⟩ }
    hs := { s.hs with filters := s.hs.filters.set 7 { s.hs.filters[7] with removal := .inHand 7 } } }

theorem witness_FailedGroupOpen :
    let s := groupFailed
    s.sc.active.map (fun a => (a.op.kind, passed s.clock a.timeout, a.missing)) = some (.open_, true, 6)
      ∧ (6 : Comb) ≠ 0 ∧ s.sc.waiting = [] ∧ s.sc.bktrip = false ∧ s.li.events.length ≤ 50
      ∧ mem (6 : Comb) 1 = true ∧ mem (6 : Comb) 0 = false ∧ (s.stp 0).state = some .opening ∧ (s.stp 0).discharge = none
      ∧ s.vc.state = .awaiting smp ∧ smp.id = 7 ∧ (s.filt 7).removal = .inHand 7
      ∧ ((operationTimeout s).filt 7).removal = .stopped ∧ (operationTimeout s).vc.state = .watch
      ∧ ((operationTimeout s).stp 0).state = some .ready := by decide +kernel

theorem witness_FailedGroupOpenBktrip : BktripLaw groupFailed := by unfold BktripLaw; decide +kernel

/-- A CLOSE of step 1 that has just timed out with its contacts at a position. -/
def timedOut (m : CloseFailMode) (p : Sensed) : State :=
  setting 0 (fun c => { c with closeFailMode := m }) (running (opOn 0 .close) (stands 0 .closing p base))

theorem witness_FailedCloseIsDisposedOf :
    (∀ m ∈ [CloseFailMode.lock, .retry, .report], ∀ p ∈ [Sensed.opened, .closed, .transit, .invalid],
      let s := timedOut m p
      s.sc.active.map (fun a => (a.op.kind, a.op.steps, a.arrived, passed s.clock a.timeout))
          = some (.close, bit 0, 0, true)
        ∧ s.sc.waiting = [] ∧ (s.stp 0).state = some .closing ∧ (s.stp 0).locks = 0 ∧ (s.stp 0).sensed = some p
        ∧ s.sc.retries[(0 : StepNo)] = none ∧ (s.cfg 0).closeFailMode = m)
      ∧ (opOn 0 .close).attempt < 1 + ((timedOut .retry .opened).cfg 0).retryCount
      ∧ 1 + ((timedOut .retry .opened).cfg 0).retryCount ≤ { opOn 0 .close with attempt := 2 }.attempt := by
  decide +kernel

/-- The same with the step LOCKED meanwhile by its trip stage. -/
theorem witness_FailedCloseOfALockedStep : ∀ m ∈ [CloseFailMode.lock, .retry, .report],
    let s := onStep 0 (fun r => { r with state := some .locked, locks := LockReason.unbalance.mask }) (timedOut m .opened)
    (s.stp 0).state = some .locked ∧ hasLock (s.stp 0).locks .closeFail = false ∧ s.li.events.length ≤ 50
      ∧ s.sc.active.map (fun a => (a.op.kind, a.op.steps, a.arrived, passed s.clock a.timeout))
        = some (.close, bit 0, 0, true) ∧ s.sc.waiting = [] ∧ s.sc.retries[(0 : StepNo)] = none := by
  decide +kernel

/-- A CLOSE of step 1 that waits for the end of channel rest. -/
def rested : State :=
  let s := stands 0 .ready .opened base
  { s with sc := { s.sc with rest := some 1000, waiting := [opOn 0 .close] } }

theorem witness_ChannelRestExpiryStartsTheWaitingClose :
    due rested.clock rested.sc.rest = true ∧ rested.sc.active = none ∧ rested.sm.built = true
      ∧ rested.sc.waiting = [opOn 0 .close] ∧ (opOn 0 .close).kind = .close ∧ (opOn 0 .close).steps = bit 0
      ∧ (∀ c ∈ [OpClass.protection, .directed, .control], closeCheck { opOn 0 .close with cls := c } 0 rested = none)
      ∧ (rested.stp 0).sensed = some .opened ∧ (setWaiting [] rested).sc.waiting = []
      ∧ smp.id = (opOn 0 .close).id ∧ rested.mu.spectrum = none ∧ rested.li.events.length ≤ 50
      ∧ closeCheck (opOn 0 .close) 0 { vcIn (.awaiting smp) rested with
          mu := { rested.mu with spectrum := some default }
          rl := { rested.rl with window := .afterWait ⟨7, .close, 0, Vector.replicate 24 0⟩ 1 } } = none := by
  decide +kernel

theorem witness_NoCloseStartsAgainstTheStartCheck :
    let s := { rested with sc := { rested.sc with rest := none } }
    ((channelMove s).bind fun t => t.sc.active).map (fun a => (a.op.kind, a.op.cls)) = some (.close, .control) := by
  decide +kernel

/-- Another step's OPEN is running, so that a request only joins the queue. -/
def occupiedBy (k : StepNo) (s : State) : State := running (opOn k .open_) (stands k .opening .closed s)

theorem witness_occupied : (occupiedBy 5 base).sc.active.map (fun a => (a.missing, mem a.op.steps 0))
    = some (bit 5, false) ∧ bit 5 ≠ 0 ∧ (occupiedBy 5 base).sc.waiting = []
    ∧ (occupiedBy 5 base).sc.retries[(0 : StepNo)] = none := by decide +kernel

theorem witness_RetryDeadlineExpiryMakesTheRequest :
    let r : Retry := ⟨.directed, .li, 2, 7, some 1000⟩
    let s := occupiedBy 5 (stands 0 .ready .opened { base with sc := { base.sc with retries := base.sc.retries.set 0 (some r) } })
    s.sc.retries[(0 : StepNo)] = some r ∧ due s.clock r.deadline = true ∧ (s.stp 0).state = some .ready
      ∧ s.sc.waiting = [] ∧ ((stands 0 .cooling .opened s).stp 0).state ≠ some .ready := by decide +kernel

theorem witness_ProtectionOpenIsNeverRefusedAndTakesOver :
    let q : OpReq := ⟨.open_, bit 0, .protection, .unbalance, .up, 1⟩
    let s := running (opOn 0 .close) (stands 0 .closing .transit base)
    q.kind = .open_ ∧ q.cls = .protection ∧ q.steps = bit 0
      ∧ s.sc.active.map (fun a => (a.op.kind, mem a.op.steps 0)) = some (.close, true)
      ∧ (s.stp 0).state = some .closing := by decide +kernel

/-- The CLOSE taken over: awaited by the controller, or with a sample and a window to discard. -/
theorem witness_ProtectionOpenAbortsAndDiscards : ∀ b ∈ [true, false],
    let q : OpReq := ⟨.open_, bit 0, .protection, .unbalance, .up, 1⟩
    let s (v : VcState) := running (opOn 0 .close) (stands 0 .closing .transit (vcIn v base))
    let t (v : VcState) := (request q 0 (windowed b (s v))).2
    (s .watch).sc.active.map (fun a => (a.op.id, a.op.requester)) = some (7, .vc) ∧ smp.id = 7
      ∧ base.sc.nextId = 0 ∧ { smp with id := 9 }.id ≠ 0 ∧ base.sc.retries[(0 : StepNo)] = none
      ∧ base.li.events.length ≤ 50 ∧ (WindowStart.mk 8 .close 0 (Vector.replicate 24 0)).id ≠ 7
      ∧ (t (.awaiting smp)).vc.state = .watch ∧ (t (.settling smp 9000)).vc.state = .watch
      ∧ (t (.awaiting { smp with id := 9 })).vc.state = .awaiting { smp with id := 9 }
      ∧ (t .watch).rl.window = .none := by decide +kernel

/-- A record that waits: its id, kind, steps, class and the time it was queued. -/
def waits (id : Byte) (kind : OpKind) (steps : Comb) (cls : OpClass) (queued : Clock) : OpRec :=
  ⟨id, kind, steps, cls, .directed, .li, [], 1, queued⟩

/-- Step 6 opens, the channel is occupied, and records wait. -/
def queueing (l : List OpRec) : State := setWaiting l (occupiedBy 5 base)

/-- Four records of the steps 2 to 5, the newest of them of a class. -/
def four (c : OpClass) : List OpRec :=
  [waits 10 .open_ 2 .protection 100, waits 11 .open_ 4 .protection 200, waits 12 .open_ 8 .protection 150,
    waits 13 .open_ 16 c 300]

/-- What a PROTECTION OPEN of step 1 meets: room, a full list of each kind with its newest record, and a waiting OPEN or
CLOSE of the step. -/
theorem witness_ProtectionOpenIsQueuedMergedAndDisplaces :
    let q : OpReq := ⟨.open_, bit 0, .protection, .unbalance, .up, 1⟩
    let newest (c : OpClass) := (four c).getLast? = some (waits 13 .open_ 16 c 300)
    let answer (l : List OpRec) := (request q 0 (queueing l)).1
    (queueing []).sc.active.map (fun a => mem a.op.steps 0) = some false
      ∧ (queueing []).sc.retries[(0 : StepNo)] = none ∧ (queueing []).li.events.length ≤ 50
      ∧ (∀ c ∈ [OpClass.protection, .directed, .control], (four c).length = 4 ∧ newest c
        ∧ (∀ x ∈ four c, mem x.steps 0 = false)
        ∧ ∀ x ∈ (four c).dropLast, (1000 - (300 : Clock)).toNat < (1000 - x.queued).toNat)
      ∧ (∀ x ∈ four .directed, x.cls ≠ .control) ∧ (∀ x ∈ four .protection, x.cls = .protection)
      ∧ answer (four .control) = .queued 0 ∧ answer (four .directed) = .queued 0 ∧ answer (four .protection) = .merged 13
      ∧ answer [waits 9 .open_ 1 .control 100] = .merged 9 ∧ answer [waits 9 .open_ 1 .protection 100] = .merged 9
      ∧ answer [waits 9 .close 1 .control 100] = .queued 0 ∧ mem (1 : Comb) 0 = true := by decide +kernel

theorem witness_RaiseExpiryReadsTheInhibitorsThenTheCandidates :
    let s := vcIn (.raiseTiming 1000) (occupiedBy 5 (stands 3 .ready .opened (stands 0 .ready .opened base)))
    let fits (vc : Int) (k : StepNo) : Bool := vc + (s.cfg k).dvEstimate ≤ s.vc.ul - s.settings.control.predictMargin
    s.vc.state = .raiseTiming 1000 ∧ passed s.clock 1000 = true
      ∧ { s with hs := { s.hs with block := true } }.inhibitors ≠ 0 ∧ s.inhibitors = 0
      ∧ (∀ k, fits 10200 k = false)
      ∧ (∀ k ∈ [(0 : StepNo), 3], (s.stp k).state = some .ready ∧ (s.stp k).closeList.length < (s.cfg k).closeLimit
        ∧ (s.stp k).alarmFlag = false ∧ (s.entry (s.energized ||| bit k)).state = .clear ∧ fits 9700 k = true)
      ∧ (∀ k, k ≠ 0 → k ≠ 3 → (s.stp k).state ≠ some .ready)
      ∧ (s.stp 0).closeList.length = (s.stp 3).closeList.length ∧ (s.stp 0).closeCount = (s.stp 3).closeCount := by
  decide +kernel

/-- A CLOSED step at the head of the Insertion List whose minimum closed time is met. -/
def removable (k : StepNo) (s : State) : State :=
  let t := onStep k (fun r => { r with closedSince := some 0 }) (stands k .closed .closed s)
  { t with sm := { t.sm with insertion := [k, 5] } }

/-- What the start check reads of a waiting record: a CLOSE that fails tests of Table 3-3, with the sample of its
requester, and an OPEN with all, one or none of its steps kept. -/
theorem witness_NoCloseStartsAgainstTheStartCheckDrops :
    let s := vcIn (.awaiting smp) (onStep 0 (fun r => { r with state := some .cooling, alarmFlag := true }) rested)
    let o (c : OpClass) := { opOn 0 .open_ with cls := c }
    let waits (c : OpClass) (t : State) := { t with sc := { rested.sc with waiting := [o c] } }
    let closed := removable 0 base
    due s.clock s.sc.rest = true ∧ s.sc.active = none ∧ s.sm.built = true ∧ s.sc.waiting = [opOn 0 .close]
      ∧ (s.stp 0).state ≠ some .ready ∧ (s.stp 0).alarmFlag = true ∧ s.vc.state = .awaiting smp
      ∧ (opOn 0 .close).requester = .vc ∧ (opOn 0 .close).id = smp.id ∧ (opOn 0 .close).cls ≠ .protection
      ∧ s.li.events.length ≤ 50
      ∧ due closed.clock (waits .control closed).sc.rest = true ∧ mem (o .control).steps 0 = true
      ∧ mem (waits .control closed).energized 0 = true ∧ ((waits .control closed).stp 0).state = some .closed
      ∧ ((waits .control closed).stp 0).closedSince ≠ none ∧ ((waits .control closed).stp 0).minClosed = none
      ∧ ((waits .control closed).stp 0).sensed ≠ some .opened
      ∧ mem (waits .control rested).energized 0 = false := by decide +kernel

theorem witness_LowerExpiryRequestsByRemovalOrder :
    let s := vcIn (.lowerTiming 1000) (removable 0 (occupiedBy 5 base))
    let keeps (vc : Int) (k : StepNo) : Bool := s.vc.ll + s.settings.control.predictMargin ≤ vc - (s.cfg k).dvEstimate
    s.vc.state = .lowerTiming 1000 ∧ passed s.clock 1000 = true ∧ s.vc.urgentHigh = false
      ∧ (∀ k ∈ s.sm.insertion, keeps 9800 k = false) ∧ keeps 10300 0 = true
      ∧ (s.stp 0).state = some .closed ∧ (s.stp 0).closedSince ≠ none ∧ (s.stp 0).minClosed = none
      ∧ (s.entry (without s.energized (bit 0))).state = .clear
      ∧ s.settings.control.removalOrder = .fifo ∧ s.sm.insertion = [] ++ 0 :: [5]
      ∧ (s.stp 5).state ≠ some .closed ∧ s.sm.insertion.reverse = [5] ++ 0 :: [] := by decide +kernel

theorem witness_SettleExpiryLearnsTheEstimate :
    (vcIn (.settling smp 1000) base).vc.state = .settling smp 1000 ∧ passed base.clock 1000 = true := by decide +kernel

theorem witness_SupervisionExpiryFallsBackAndCancelsDirectedCloses :
    let s := { occupiedBy 5 base with vc := { base.vc with mode := .remote, supervision := some 1000 } }
    due s.clock s.vc.supervision = true ∧ s.vc.mode = .remote ∧ s.vc.state = .suspended
      ∧ s.settings.control.fallback = .hold
      ∧ s.sc.active.map (fun a => a.missing) = some (bit 5) := by decide +kernel

/-- A waiting DIRECTED CLOSE that a filter joined, and a pending DIRECTED retry. -/
theorem witness_SupervisionExpiryCancels :
    let o := { waits 9 .close 1 .directed 100 with joined := [.hs] }
    let q := queueing [o]
    let s := { q with
      vc := { q.vc with mode := .remote, supervision := some 1000 }
      sc := { q.sc with retries := q.sc.retries.set 1 (some ⟨.directed, .li, 2, 7, none⟩) }
      hs := { q.hs with filters := q.hs.filters.set 7 { q.hs.filters[7] with removal := .inHand 9 } } }
    due s.clock s.vc.supervision = true ∧ s.vc.mode = .remote ∧ s.sc.active.map (fun a => a.missing) = some (bit 5)
      ∧ s.sc.waiting = [o] ∧ o.kind = .close ∧ o.cls = .directed ∧ .hs ∈ o.joined ∧ s.li.events.length ≤ 50
      ∧ (s.filt 7).removal = .inHand o.id ∧ (s.filt 6).removal = .none
      ∧ s.sc.retries[(1 : StepNo)].map (·.cls) = some .directed
      ∧ (supervisionExpiry s).sc.waiting = [] ∧ ((supervisionExpiry s).filt 7).removal = .complete := by decide +kernel

theorem witness_ModeRequestMovesTheVoltageController : hasRoom base = true ∧ modeOfByte 0 = some .auto
    ∧ modeOfByte 2 = some .hold ∧ base.vc.mode = .hold ∧ Mode.auto ≠ base.vc.mode := by decide +kernel

/-- Leaving AUTO with a sample in SETTLING and a window in SETTLING or AFTER-WAIT. -/
theorem witness_ModeRequestDiscards : ∀ b ∈ [true, false],
    let s := windowed b (vcIn (.settling smp 9000) base)
    hasRoom s = true ∧ s.vc.mode = .auto ∧ s.li.events.length ≤ 50 ∧ s.vc.state = .settling smp 9000
      ∧ s.rl.window ≠ .none ∧ (changeMode .hold s).rl.window = .none ∧ (changeMode .hold s).vc.state = .suspended := by
  decide +kernel

theorem witness_FiltersActivateDropOutAndAreAcknowledged :
    let s := filtIn 7 (.pickingUp 1000) .blockClose base
    s.isEnabled 7 = true ∧ (s.filt 7).state = .pickingUp 1000 ∧ passed s.clock 1000 = true
      ∧ (s.fcfg 7).action ≠ .alarm ∧ (s.fcfg 7).action = .blockClose ∧ channelMove s = none ∧ hasRoom s = true
      ∧ ((filtIn 0 (.dropping 1000) .alarm base).filt 0).state = .dropping 1000
      ∧ ((filtIn 0 .held .alarm base).filt 0).state = .held
      ∧ ((filtIn 0 .active .alarm base).filt 0).state = .active ∧ base.isEnabled 0 = false := by decide +kernel

theorem witness_FiltersActivateAndRequest :
    let closed (s : State) := stands 0 .closed .closed s
    let ins (s : State) := { s with sm := { s.sm with insertion := [0, 5] } }
    let s := ins (occupiedBy 5 (closed (filtIn 7 (.pickingUp 1000) .removeLast base)))
    let u := ins (occupiedBy 5 (closed (filtIn 7 (.pickingUp 1000) .tripAll base)))
    let none_ := ins (occupiedBy 5 (filtIn 7 (.pickingUp 1000) .removeLast base))
    let c := running (opOn 5 .close) (stands 5 .closing .transit (closed (filtIn 7 (.pickingUp 1000) .tripAll base)))
    s.sc.active.map (fun a => (a.missing, mem a.op.steps 0)) = some (bit 5, false) ∧ s.sc.waiting = []
      ∧ (∀ j : StepNo, s.sc.retries[j] = none) ∧ s.li.events.length ≤ 50 ∧ (s.filt 7).state = .pickingUp 1000
      ∧ s.isEnabled 7 = true ∧ passed s.clock 1000 = true
      ∧ (s.fcfg 7).action = .removeLast ∧ s.sm.insertion.reverse = [5] ++ 0 :: []
      ∧ (s.stp 0).state = some .closed ∧ (∀ j ∈ [(5 : StepNo)], (s.stp j).state ≠ some .closed)
      ∧ (∀ k ∈ none_.sm.insertion, (none_.stp k).state ≠ some .closed) ∧ (none_.fcfg 7).action = .removeLast
      ∧ (u.fcfg 7).action = .tripAll ∧ u.sc.active.map (fun a => a.op.kind) = some .open_
      ∧ (∀ k, mem (bit 0) k = true ↔ mem u.energized k = true ∧ (u.stp k).state ≠ some .locked ∧ mem (bit 5) k = false)
      ∧ (c.fcfg 7).action = .tripAll ∧ c.sc.active.map (fun a => (a.op.kind, a.op.steps)) = some (.close, bit 5)
      ∧ (c.stp 5).sensed ≠ some .opened
      ∧ (∀ k, mem (bit 0) k = true ↔ mem c.energized k = true ∧ (c.stp k).state ≠ some .locked ∧ mem (bit 5) k = false)
      ∧ bit 0 ≠ 0 := by decide +kernel

theorem witness_ResonanceEntriesExpireAndAreWritten :
    let s := { base with rl := { base.rl with table := base.rl.table.set 63 ⟨.vetoed, none, some 1000⟩ } }
    due s.clock (s.entry 63).expiry = true ∧ hasRoom s = true ∧ (63 : Comb) ≠ 0 ∧ (1 : Comb) ≠ 0
      ∧ 64 ≤ (64 : Byte).toNat ∧ (0 : Byte).toNat = 0 ∧ 4 ≤ (4 : Byte).toNat ∧ (1 : Byte).toNat = 1 := by decide +kernel

theorem witness_JudgementFindsTheWorstOrder : judge 150 (Vector.replicate 24 0) (orders57 150 0) = some ⟨5, 1500, 150⟩
    ∧ judge 150 (Vector.replicate 24 0) (orders57 149 0) = none := by decide +kernel

theorem witness_JudgementMarksTheTable :
    let w : WindowStart := ⟨7, .close, 0, Vector.replicate 24 0⟩
    let s := { occupiedBy 5 (stands 0 .closed .closed base) with
      mu := { base.mu with owed := some ⟨true, true, true⟩ }, rl := { base.rl with window := .afterWait w 33 } }
    windowReady quiet s = some ⟨true, true, true⟩ ∧ s.rl.window = .afterWait w 33 ∧ s.settings.enabled = 0
      ∧ s.sc.active.map (fun a => (a.missing, mem a.op.steps w.step)) = some (bit 5, false) ∧ s.sc.waiting = []
      ∧ s.sc.retries[w.step] = none ∧ s.li.events.length ≤ 50 ∧ s.energized = 33
      ∧ s.settings.yard.vetoLevel = 600 ∧ s.settings.yard.resRatio = 200
      ∧ judge 150 (Vector.replicate 24 0) (orders57 600 0) = some ⟨5, 6000, 600⟩
      ∧ judge 150 (Vector.replicate 24 500) (orders57 599 0) = some ⟨5, 119, 599⟩
      ∧ judge 150 (Vector.replicate 24 0) (orders57 599 0) = some ⟨5, 5990, 599⟩
      ∧ (s.entry 33).state = .clear
      ∧ ({ s.rl with table := s.rl.table.set 33 ⟨.pinned, none, none⟩ }.table[33]).state = .pinned := by decide +kernel

theorem witness_UnbalanceStagesOperate :
    let s := onStep 0 (fun r => { r with alarmStage := .pickingUp 1000, tripStage := .pickingUp 1000 })
      (stands 0 .closed .closed base)
    (s.stp 0).supervised = true ∧ passed s.clock 1000 = true ∧ (s.stp 0).alarmStage = .pickingUp 1000
      ∧ (s.stp 0).tripStage = .pickingUp 1000 ∧ (s.cfg 0).tripMode = .latch
      ∧ ((setting 0 (fun c => { c with tripMode := .report }) s).cfg 0).tripMode = .report
      ∧ hasLock (s.stp 0).locks .unbalance = false ∧ s.sc.waiting = [] ∧ s.sc.retries[(0 : StepNo)] = none
      ∧ s.li.events.length ≤ 50 ∧ s.sc.active = none ∧ s.sm.built = true
      ∧ (occupiedBy 5 s).sc.active.map (fun a => (a.missing, mem a.op.steps 0)) = some (bit 5, false) := by
  decide +kernel

theorem witness_ZeroIsTakenOrRefusedInOrder :
    let s := stands 5 .closed .closed base
    let f (v : Nat) := formCycle 980 0 (cycleOf (vu v) (vu v) (vu v))
    hasRoom s = true ∧ State.reset.sm.built = false ∧ s.sm.built = true ∧ s.zeroing = none
      ∧ { s with zeroing := some ⟨5, 16, 0, 0, 0, 0, 0⟩ }.zeroing ≠ none
      ∧ ¬((base.stp 5).state = some .closed ∧ (base.stp 5).sensed = some .closed)
      ∧ (s.stp 5).state = some .closed ∧ (s.stp 5).sensed = some .closed ∧ (s.stp 5).inrush = none
      ∧ s.mu.cycle = none ∧ (framed 9000 s).mu.cycle = some (f 9000) ∧ (f 9000).values ≠ []
      ∧ (f 9000).values.sum / (f 9000).values.length = 9000
      ∧ (f 11000).values.sum / (f 11000).values.length = 11000 ∧ (f 9000).vtLoss = false
      ∧ (f 8999).values.sum / (f 8999).values.length < 9000 := by decide +kernel

theorem witness_ZeroCancelAbortsTheZeroing : hasRoom base = true ∧ base.zeroing = none
    ∧ { base with zeroing := some ⟨0, 16, 15, 0, 0, 0, 0⟩ }.zeroing = some ⟨0, 16, 15, 0, 0, 0, 0⟩ := by decide +kernel

theorem witness_Ov1ExpiryRepeatsAndTakesAStep :
    let s := removable 0 (occupiedBy 5 base)
    passed s.clock 1000 = true ∧ { s.yp with ov1 := .pickingUp 1000 }.ov1 = .pickingUp 1000
      ∧ { s.yp with ov1 := .operated 1000 }.ov1 = .operated 1000 ∧ (∀ k ∈ base.sm.insertion, ov1Takes base k = false)
      ∧ (s.stp 0).state = some .closed ∧ s.sm.insertion = [] ++ 0 :: [5] ∧ (s.stp 5).state ≠ some .closed
      ∧ s.li.events.length ≤ 50 := by
  decide +kernel

theorem witness_YardTripIsCountedLatchesAndOpens :
    let s := { stands 0 .closed .closed base with yp := { base.yp with ov2 := .pickingUp 1000, dead := .pickingUp 1000 } }
    passed s.clock 1000 = true ∧ s.yp.ov2 = .pickingUp 1000 ∧ s.yp.dead = .pickingUp 1000
      ∧ s.settings.yard.yardTripMode = .auto ∧ s.yp.trip = .normal ∧ s.settings.yard.retryLimit = 3
      ∧ { s.yp with times := [1, 2, 3] }.times.length + 1 = 4 ∧ s.li.events.length ≤ 50
      ∧ s.sm.built = true ∧ s.sc.active = none ∧ s.sc.waiting = []
      ∧ mem s.energized 0 = true ∧ (s.stp 0).state ≠ some .locked ∧ (s.stp 0).sensed ≠ some .opened := by
  decide +kernel

/-- A trip out of NORMAL with a sample and a window to discard. -/
theorem witness_YardTripDiscards : ∀ b ∈ [true, false],
    let s := windowed b (vcIn (.settling smp 9000) { base with yp := { base.yp with ov2 := .pickingUp 1000 } })
    passed s.clock 1000 = true ∧ s.yp.ov2 = .pickingUp 1000 ∧ s.yp.trip = .normal ∧ s.sc.waiting = []
      ∧ s.li.events.length ≤ 24 ∧ s.vc.state = .settling smp 9000 ∧ s.rl.window ≠ .none
      ∧ (ov2PickupExpiry s).vc.state = .watch ∧ (ov2PickupExpiry s).rl.window = .none := by decide +kernel

theorem witness_YardRestoresByDelayOrAcknowledgement :
    hasRoom base = true ∧ base.yp.trip = .normal ∧ passed base.clock 1000 = true
      ∧ { base.yp with trip := .restoring .ov2 1000 }.trip = .restoring .ov2 1000
      ∧ (∃ f, (framed 9000 base).mu.cycle = some f ∧ restoreCondition base.settings.yard .deadLine f = true)
      ∧ (∃ f, (framed 8999 base).mu.cycle = some f ∧ restoreCondition base.settings.yard .deadLine f = false)
      ∧ base.mu.cycle = none :=
  ⟨by decide +kernel, rfl, by decide +kernel, rfl, ⟨_, rfl, by decide +kernel⟩, ⟨_, rfl, by decide +kernel⟩, rfl⟩

theorem witness_LinkHousekeepingEvents :
    let s := { base with li := { base.li with held := some ⟨1, 7, 1000⟩, rxLimit := some 1000, rx := .check 0 2 1 [] none } }
    s.li.held = some ⟨1, 7, 1000⟩ ∧ passed s.clock 1000 = true ∧ due s.clock s.li.rxLimit = true
      ∧ s.li.rx = .check 0 2 1 [] none
      ∧ (sendReply ⟨0x87, 9, .ok, .empty⟩ s).li.replies = ⟨0x87, 9, .ok, .empty⟩ :: [] := by decide +kernel

/-- A reply list with no place left: three replies and a held WAIT. -/
def full (s : State) : State :=
  { s with li := { s.li with replies := List.replicate 3 ⟨0, 0, .ok, .empty⟩, held := some ⟨0, 7, 1000⟩ } }

theorem witness_FramesAreAdmittedByRoomKindAndLength : hasRoom base = true ∧ hasRoom (full base) = false
    ∧ knownKind 0x16 = false ∧ knownKind 0x00 = false ∧ ([] : List Byte).length ≠ 1 := by decide +kernel

theorem witness_ReadsReportAndChangeNothingElse : hasRoom base = true ∧ base.sm.built = true
    ∧ State.reset.sm.built = false ∧ (63 : Byte).toNat < 64 := by decide +kernel

/-- Operands outside their range, just past it and, for a number, at 0: each is refused RANGE (R168, R169, R171). -/
theorem witness_OperandsOutOfRange : hasRoom base = true ∧ base.sm.built = true ∧ hasRoom State.reset = true
    ∧ State.reset.sm.built = false ∧ (handleFrame 0x11 1 [3, 1] base).li.replies.map (·.result) = [.range]
    ∧ ∀ i ∈ [Instr.mode 1 [3], .acknowledgeFilter 1 [9], .acknowledgeFilter 1 [0], .zero 1 [7, 0, 0], .zero 1 [0, 0, 0],
        .status 1 [2], .stepRead 1 [7], .stepRead 1 [0], .filterRead 1 [9], .filterRead 1 [0], .vetoRead 1 [64, 1],
        .operate 1 [7, 0], .operate 1 [0, 1], .operate 1 [1, 2], .acknowledgeStep 1 [7], .acknowledgeStep 1 [0],
        .wait 1 [8, 0, 0], .wait 1 [0, 0, 0]],
      (match exec i base with
        | .next t => t.li.replies.map (·.result)
        | .fault _ => []
        | .refused _ => []) = [.range] := by decide +kernel

/-- VETO_READ in each phase of the learning window. -/
theorem witness_VetoReadReportsTheWindow :
    let w : WindowStart := ⟨7, .close, 0, Vector.replicate 24 0⟩
    let r (v : Window) := vetoReport 0 1 { base with rl := { base.rl with window := v } }
    (r .none).phase = .none ∧ (r (.started w)).phase = .started ∧ (r (.started w)).windowComb = none
      ∧ (r (.settling w 1 9000)).windowId = some 7 ∧ (r (.afterWait w 1)).windowComb = some 1 := by decide +kernel

theorem witness_OperateQueuesADirectedRequest :
    let s := occupiedBy 5 base
    let c := running (opOn 5 .close) (stands 5 .closing .transit base)
    hasRoom s = true ∧ s.sm.built = true ∧ State.reset.sm.built = false ∧ s.vc.mode ≠ .auto
      ∧ (vcIn .watch s).vc.mode = .auto
      ∧ s.sc.active.map (fun a => (a.missing, mem a.op.steps 5, a.op.kind)) = some (bit 5, true, .open_)
      ∧ c.sc.active.map (fun a => (a.missing, mem a.op.steps 5, a.op.kind)) = some (bit 5, true, .close) := by
  decide +kernel

/-- What OPERATE of step 1 meets in the waiting list: room, four records, and a waiting OPEN or CLOSE of the step. -/
theorem witness_OperateIsPlacedMergedAndSupersedes :
    let s (l : List OpRec) := { queueing l with vc := { base.vc with mode := .remote } }
    let reply (l : List OpRec) (c : Byte) := (operate 1 (if c = 0 then .close else .open_) 0 (s l)).li.replies.map (·.result)
    (∀ l ∈ [[], four .control, [waits 9 .open_ 1 .control 100], [waits 9 .close 1 .control 100]], hasRoom (s l) = true
        ∧ (s l).sm.built = true ∧ (s l).vc.mode ≠ .auto ∧ (s l).sc.retries[(0 : StepNo)] = none
        ∧ (s l).sc.active.map (fun a => (a.missing, mem a.op.steps 0)) = some (bit 5, false))
      ∧ (four .control).length = 4 ∧ (∀ x ∈ four .control, mem x.steps 0 = false)
      ∧ reply [] 1 = [.accepted] ∧ reply (four .control) 1 = [.full] ∧ reply [waits 9 .open_ 1 .control 100] 1 = [.accepted]
      ∧ reply [waits 9 .open_ 1 .control 100] 0 = [.conflict] ∧ reply [waits 9 .close 1 .control 100] 1 = [.accepted] := by
  decide +kernel

/-- Two bytes of a number. -/
def two (n : Nat) : List Byte := [BitVec.ofNat 8 (n / 256), BitVec.ofNat 8 n]

/-- Payloads of the settings writes that carry the defaults. -/
def controlDefaults : List Byte := [0, 0, 10000, 400, 500, 300, 60, 60, 5, 10, 50, 10, 50, 800].flatMap two ++ [2, 1, 0]

/-- The defaults of STEP-CONFIG for step 6. -/
def stepDefaults : List Byte :=
  6 :: [10, 200, 100, 100, 1, 30, 300, 4, 24, 600, 0, 0, 10000, 200, 200, 500, 10, 500, 200].flatMap two ++ [0, 0]

/-- The defaults of YARD-CONFIG. -/
def yardDefaults : List Byte :=
  [10, 150, 200, 600, 120, 480, 11000, 5, 12000, 100, 3000, 500, 9000, 60, 3, 4].flatMap two ++ [0, 0, 0, 0, 0, 1]

/-- The defaults of FILTER-CONFIG for F8. -/
def filterDefaults : List Byte := [8, 0, 255, 255, 255, 0] ++ two 800 ++ [0, 0, 0] ++ two 10 ++ two 10 ++ [0, 0]

theorem witness_SettingsWritesAreTakenAsAWhole :
    hasRoom base = true ∧ base.store.saving = none ∧ (takeSave base).store.saving ≠ none
      ∧ controlDefaults.length = 31 ∧ parseControl controlDefaults = some .default
      ∧ yardDefaults.length = 38 ∧ parseYard yardDefaults = some .default ∧ base.yp.trip = .normal
      ∧ stepDefaults.length = 41 ∧ stepDefaults.head? = some 6 ∧ parseStep 50 800 stepDefaults = some .default
      ∧ ((stands 5 .offline .opened base).stp 5).state = some .offline
      ∧ filterDefaults.length = 17 ∧ filterDefaults.head? = some 8 ∧ parseFilter filterDefaults = some .default
      ∧ base.isEnabled 7 = false ∧ base.vc.state = .suspended := by decide +kernel

theorem witness_SettingsWritesAreRefused :
    parseControl (controlDefaults.set 29 2) = none ∧ (controlDefaults.set 29 2).length = 31
      ∧ parseYard (yardDefaults.set 35 2) = none ∧ (yardDefaults.set 35 2).length = 38
      ∧ parseStep 50 800 (stepDefaults.set 39 3) = none ∧ (stepDefaults.set 39 3).length = 41
      ∧ (stepDefaults.set 39 3).head? = some 6 ∧ (stepDefaults.set 0 7).head? = some 7 ∧ 6 < (7 : Byte).toNat
      ∧ parseFilter (filterDefaults.set 15 4) = none ∧ (filterDefaults.set 15 4).length = 17
      ∧ (filterDefaults.set 0 9).head? = some 9 ∧ 8 < (9 : Byte).toNat ∧ (filterDefaults.set 0 0).head? = some 0
      ∧ (filtIn 7 .quiet .alarm base).isEnabled 7 = true ∧ State.reset.sm.built = false
      ∧ ((stands 5 .ready .opened base).stp 5).state ≠ some .offline
      ∧ { base.yp with trip := .latched .ov2 }.trip ≠ .normal
      ∧ YardSettings.sameProtection .default base.settings.yard = true
      ∧ YardSettings.sameProtection .default { base.settings.yard with ov1Delay := 6 } = false := by decide +kernel

/-- CONTROL-CONFIG with another LDC-R, with other limits, and in REMOTE with a sample in SETTLING. -/
theorem witness_ControlConfigChanges :
    let ldc := controlDefaults.set 1 5
    let limits := (controlDefaults.set 24 0).set 25 201
    let s := vcIn (.settling smp 9000) base
    parseControl ldc = some { ControlSettings.default with ldcR := 5 } ∧ ldc.length = 31
      ∧ parseControl limits = some { ControlSettings.default with dvMin := 201 } ∧ limits.length = 31
      ∧ base.settings.control = .default ∧ (base.cfg 0).dvEstimate = 200 ∧ base.li.events.length ≤ 50
      ∧ hasRoom s = true ∧ s.store.saving = none ∧ s.vc.state = .settling smp 9000
      ∧ { base.vc with mode := .remote }.mode = .remote ∧ ControlSettings.default.supervision ≠ 0 := by decide +kernel

/-- A SAVE in flight with room for a reply, and the bounds of a set-form, a step list and a payload length. -/
theorem witness_BusyAndRange : hasRoom (takeSave base) = true ∧ (takeSave base).store.saving ≠ none
    ∧ State.reset.sm.built = false ∧ hasRoom base = true ∧ base.store.saving = none ∧ base.sm.built = true
    ∧ 4 ≤ (4 : Byte).toNat ∧ 64 ≤ (64 : Byte).toNat ∧ formOfByte 4 = none ∧ (List.replicate 42 (0 : Byte)).length = 42 := by
  decide +kernel

theorem witness_SetFormsChangeMembership :
    let s := stands 0 .offline .opened base
    let lone := { stands 0 .ready .opened base with settings := { base.settings with inService := 1 } }
    hasRoom s = true ∧ s.store.saving = none ∧ s.sm.built = true ∧ formOfByte 0 = some .write
      ∧ formOfByte 1 = some .set ∧ formOfByte 2 = some .clear ∧ formOfByte 3 = some .toggle
      ∧ (s.stp 0).state = some .offline ∧ s.inService 0 = false ∧ (∀ k, k ≠ 0 → mem (1 : Comb) k = s.inService k)
      ∧ mem (63 : Comb) 1 ≠ s.inService 1 ∧ (s.stp 1).state = none
      ∧ lone.inService 0 = true ∧ (lone.stp 0).state = some .ready
      ∧ ((stands 0 .locked .opened base).stp 0).state = some .locked
      ∧ (running (opOn 0 .open_) lone).sc.active.map (fun a => mem a.op.steps 0) = some true := by decide +kernel

theorem witness_AcknowledgeReleasesALockedOpenStep :
    let s := stands 5 .locked .opened base
    hasRoom s = true ∧ s.sm.built = true ∧ (s.stp 5).state = some .locked ∧ (s.stp 5).sensed = some .opened
      ∧ s.activeOn 5 = false ∧ ((stands 5 .locked .closed base).stp 5).sensed ≠ some .opened
      ∧ (running (opOn 5 .open_) s).activeOn 5 = true ∧ (base.stp 5).state ≠ some .locked := by decide +kernel

theorem witness_EventsAndWaitServeTheQueue :
    hasRoom base = true ∧ (7 : BitVec 3) ≠ 0 ∧ base.li.held = none
      ∧ { base.li with held := some ⟨0, 7, 1000⟩ }.held ≠ none
      ∧ (∀ e ∈ base.li.events, inMask 1 e.cls = false)
      ∧ (base.li.events.find? fun r => inMask 2 r.cls) = some coldStartRecord := by decide +kernel

theorem witness_SaveWritesTheOtherSlot :
    hasRoom base = true ∧ base.store.saving = none ∧ base.store.newest = none ∧ (stored base).store.newest = some .b
      ∧ (takeSave (stored base)).store.saving = some ⟨.a, base.settings, 2, 1400⟩
      ∧ (takeSave (stored base)).store.newest = some .b ∧ SlotName.b ≠ .a
      ∧ (2 : BitVec 32) = ((takeSave (stored base)).store.slot .b).gen + 1 := by decide +kernel

theorem witness_RestartKeepsWhatTheChaptersKeep :
    hasRoom base = true ∧ base.store.saving = none ∧ occupied base = false ∧ occupied rested = true
      ∧ (takeSave base).store.saving ≠ none ∧ base.store.image = none
      ∧ (stored base).store.image = some base.settings ∧ base.li.events.length ≤ 24 ∧ base.li.held = none
      ∧ ({ base.li with held := some ⟨3, 7, 9000⟩ } : Link).held = some ⟨3, 7, 9000⟩
      ∧ base.rl.window = .none ∧ (vcIn .watch base).vc.mode = .auto := by decide +kernel

theorem witness_RestartKeepsTheInsertionList : InsertionLaw base ∧ InsertionLaw (stored base) := by
  unfold InsertionLaw; decide +kernel

/-- An image whose REST-WINDOW differs from the working one. -/
theorem witness_RestartReformsTheLeaveDeadline :
    let img := (setting 0 (fun c => { c with restWindow := 48 }) base).settings
    let s := { base with store := { base.store with slotB := ⟨img, 1, true⟩ } }
    s.store.image = some img ∧ (s.cfg 0).restWindow ≠ img.steps[(0 : StepNo)].restWindow := by decide +kernel

/-- A restart that brings the steps 2 and 4 into service and takes the steps 1, 3 and 5 out of it. -/
def reloading : State :=
  let s := stands 0 .closed .closed (stands 1 .offline .opened (stands 2 .cooling .opened (stands 4 .locked .opened base)))
  { s with
    store := { s.store with slotB := ⟨{ s.settings with inService := 10 }, 1, true⟩ }
    settings := { s.settings with inService := 21 } }

theorem witness_RestartReloadsTheInServiceSet :
    let s := reloading
    let sets := s.store.image.map fun i => (mem i.inService 0, mem i.inService 1, mem i.inService 2, mem i.inService 4)
    s.store.saving = none ∧ occupied s = false ∧ s.sm.built = true ∧ s.li.events.length ≤ 24
      ∧ sets = some (false, true, false, false) ∧ s.inService 0 = true ∧ s.inService 1 = false
      ∧ s.inService 2 = true ∧ s.inService 4 = true ∧ (s.stp 0).state = some .closed ∧ (s.stp 1).state = some .offline
      ∧ (s.stp 2).state = some .cooling ∧ (s.stp 4).state = some .locked ∧ (s.stp 4).sensed = some .opened
      ∧ ((stands 4 .locked .closed s).stp 4).sensed ≠ some .opened ∧ s.inService 5 = false
      ∧ s.store.image.map (fun i => mem i.inService 5) = some false
      ∧ (reloading.store.image.map fun i => { i with control := { i.control with dvMin := 201 } }.control.dvMin) = some 201
      ∧ State.reset.sm.built = false := by decide +kernel

theorem witness_AFrameSentByteByByteIsHandledOnce :
    (List.replicate 250 (0 : Byte)).length ≤ 250 ∧ base.li.rx = .hunt ∧ base.li.rxLimit = none
      ∧ ({ base with pending := (frameBytes 2 1 []).map Instr.byteReceived } : State).pending
        = (frameBytes 2 1 []).map Instr.byteReceived := by decide +kernel

/-- A frame with other check bytes, and a length byte above 250. -/
theorem witness_AFrameIsDiscarded :
    [0, 0] ≠ checkBytes (crc16 [0, 2, 1]) ∧ 250 < (251 : Byte).toNat ∧ base.li.rx = .hunt ∧ base.li.rxLimit = none
      ∧ ([0xA5, 0, 2, 1, 0, 0].foldl (fun s b => byteReceived b s) base) = base
      ∧ ([0xA5, 251].foldl (fun s b => byteReceived b s) base) = base := by decide +kernel

/-- Step 1 energized and in service, step 2 LOCKED with OPEN-FAIL and BKTRIP asserted, step 3 OFFLINE, one record
ACTIVE and one waiting, a close list and a trip-time list of one entry each, a held WAIT, an enabled filter in force, and a command
waiting. -/
def yard : State :=
  let s := filtIn 0 .active .blockClose (stands 0 .closed .closed (stands 1 .locked .transit (stands 2 .offline .opened base)))
  let t := onStep 1 (fun r => { r with locks := LockReason.openFail.mask })
    (onStep 0 (fun r => { r with closeList := [900], leave := some 86400900 }) s)
  { t with
    pending := [.replySent]
    sm := { t.sm with insertion := [1, 0] }
    sc := { (running (opOn 4 .open_) t).sc with bktrip := true, waiting := [opOn 3 .close] }
    hs := { t.hs with block := true }
    yp := { t.yp with times := [900], leave := some 14400900 }
    li := { t.li with held := some ⟨1, 4, 2000⟩, replies := List.replicate 3 ⟨0, 0, .ok, .empty⟩ }
    settings := { t.settings with inService := 1 } }

theorem witness_EveryStepKeepsTheReportLaws : QueueLaw yard ∧ ReplyLaw yard := by
  unfold QueueLaw ReplyLaw; decide +kernel

theorem witness_EveryStepKeepsTheControlLaws : VoltageLaw yard ∧ ModeLaw yard ∧ EstimateLaw yard := by
  refine ⟨by unfold VoltageLaw; decide +kernel, by unfold ModeLaw; decide +kernel, ?_, ?_, ?_, ?_, ?_⟩
  · decide +kernel
  · decide +kernel
  · decide +kernel
  · decide +kernel
  · intro v h; cases h

theorem witness_EveryStepKeepsTheTableLaws : InsertionLaw yard ∧ TableLaw yard := by
  refine ⟨by unfold InsertionLaw; decide +kernel, ⟨by decide +kernel, by decide +kernel, by decide +kernel, ?_,
    by decide +kernel, by decide +kernel, ?_⟩⟩
  · intro k st h hw
    have e : ∀ k : StepNo, yard.inService k = true ∨ (yard.stp k).state = some .locked
        ∨ (yard.stp k).state = some .offline ∨ (yard.stp k).state = none := by decide +kernel
    rcases e k with e | e | e | e
    · exact e
    · rw [e] at h; cases h; cases hw
    · rw [e] at h; cases h; cases hw
    · rw [e] at h; cases h
  · intro z h; cases h

theorem witness_EveryStepKeepsTheChannelLaws : WaitingLaw yard ∧ BktripLaw yard := by
  refine ⟨⟨by decide +kernel, by decide +kernel, by decide +kernel, ?_⟩, by unfold BktripLaw; decide +kernel⟩
  intro a h
  obtain rfl : _ = a := Option.some.inj h
  decide +kernel

theorem witness_EveryStepKeepsTheListLaw : ListLaw yard := by unfold ListLaw; decide +kernel

theorem witness_EveryStepKeepsTheHarmonicLaws : HarmonicBlockLaw yard ∧ EmptyCombinationLaw yard := by
  unfold HarmonicBlockLaw EmptyCombinationLaw; decide +kernel

/-- The last contact of an operation on step 1 has just lasted its time: POS-A rises for a CLOSE and falls for an OPEN. -/
def arriving (kind : OpKind) : State :=
  let closing := kind = .close
  let s := onStep 0 (fun r => { r with
      posA := ⟨closing, some (!closing), some 1000⟩
      posB := ⟨!closing, some (!closing), none⟩ })
    (stands 0 (if closing then .closing else .opening) .transit base)
  running (opOn 0 kind) { vcIn (.awaiting smp) s with
    sm := { s.sm with insertion := if closing then [] else [0] }
    rl := { s.rl with window := .started ⟨7, kind, 0, Vector.replicate 24 0⟩ } }

theorem witness_ArrivalOfTheLastStepEndsTheOperation : ∀ kind ∈ [OpKind.close, .open_],
    let s := arriving kind
    due s.clock ((s.stp 0).contact .posA).deadline = true ∧ s.sm.built = true
      ∧ s.sc.active.map (fun a => (a.op, a.missing)) = some (opOn 0 kind, bit 0) ∧ mem (bit 0) 0 = true
      ∧ (kind = .close → (opOn 0 kind).steps = bit 0)
      ∧ s.sc.waiting = [] ∧ ((s.stp 0).contact .posA).raw = decide (kind = .close)
      ∧ ((s.stp 0).contact .posB).filtered = some (decide (kind = .open_)) ∧ (s.stp 0).sensed = some .transit
      ∧ s.li.events.length ≤ 50 ∧ s.vc.state = .awaiting smp ∧ smp.id = 7
      ∧ (contactFilterExpiry 0 .posA s).sc.active = none := by
  decide +kernel

theorem witness_ArrivalClauses :
    let s := setting 0 (fun c => { c with closeLimit := 1 }) (arriving .close)
    (s.stp 0).closeList.length < (s.cfg 0).closeLimit
      ∧ ((contactFilterExpiry 0 .posA s).stp 0).closeList.length = (s.cfg 0).closeLimit
      ∧ ({ opOn 0 .close with joined := [.hs] }.joined.contains .hs) = true
      ∧ (s.stp 0).state = some .closing ∧ ((arriving .open_).stp 0).state = some .opening
      ∧ ((stands 0 .locked .transit (arriving .open_)).stp 0).state = some .locked := by decide +kernel

/-- The arrival with a sample and a window of an earlier operation still to end. -/
theorem witness_ArrivalDiscards : ∀ kind ∈ [OpKind.close, .open_], ∀ b ∈ [true, false],
    let s := windowed b (vcIn (.settling smp 9000) (arriving kind))
    s.vc.state = .settling smp 9000 ∧ s.rl.window ≠ .none ∧ s.li.events.length ≤ 50 ∧ s.sc.waiting = []
      ∧ due s.clock ((s.stp 0).contact .posA).deadline = true
      ∧ (contactFilterExpiry 0 .posA s).vc.state = .watch ∧ (contactFilterExpiry 0 .posA s).rl.window = .none := by
  decide +kernel

theorem witness_ArrivalInsertion : InsertionLaw (arriving .close) ∧ InsertionLaw (arriving .open_) := by
  unfold InsertionLaw; decide +kernel

theorem witness_EveryStepAnswersANextState : ∃ t, step yard = .next t := ⟨_, rfl⟩

end Sys2Proof.Tests
end

