-- ==== Sys2Proof/Proofs/VtLoss.lean ====
section
/-! PROOFS. VT-LOSS of three phases, of a Cycle Frame and of the state, and the statement O8 (R5). -/

namespace Sys2Proof.Machine

/-! ### One phase (R5) -/

@[simp] theorem Phase.failed_iff (p : Phase) : p.failed = true ↔ p.quality = .absent ∨ p.value < 2000 := by
  simp [Phase.failed, Phase.valid]

@[simp] theorem Phase.healthy_iff (p : Phase) : p.healthy = true ↔ p.quality ≠ .absent ∧ 7000 ≤ p.value := by
  simp [Phase.healthy, Phase.valid]

/-- The gap between the two thresholds: this is why the healthy phase R5 asks for is always another one. -/
theorem Phase.not_failed_of_healthy {p : Phase} (hp : p.healthy = true) : ¬ p.failed = true := by
  obtain ⟨present, high⟩ := p.healthy_iff.mp hp
  rw [p.failed_iff]
  rintro (absent | low)
  · exact present absent
  · omega

/-! ### Three phases -/

theorem vtLossOf_iff_exists (p : Fin 3 → Phase) :
    vtLossOf (p 0) (p 1) (p 2) = true ↔ (∃ i, (p i).failed = true) ∧ ∃ j, (p j).healthy = true := by
  simp [vtLossOf, Fin.exists_fin_succ, or_assoc]

theorem vtLossOf_iff_distinct (p : Fin 3 → Phase) :
    vtLossOf (p 0) (p 1) (p 2) = true ↔ ∃ i j, i ≠ j ∧ (p i).failed = true ∧ (p j).healthy = true := by
  rw [vtLossOf_iff_exists]
  constructor
  · rintro ⟨⟨i, failed⟩, j, healthy⟩
    refine ⟨i, j, ?_, failed, healthy⟩
    rintro rfl
    exact Phase.not_failed_of_healthy healthy failed
  · rintro ⟨i, j, -, failed, healthy⟩
    exact ⟨⟨i, failed⟩, j, healthy⟩

/-- The condition on a formed frame is that of the frame's own three phases. -/
theorem formCycle_vtLoss (now : Clock) (carried : Nat) (m : CycleInput) :
    (formCycle now carried m).vtLoss =
      vtLossOf (formCycle now carried m).va (formCycle now carried m).vb (formCycle now carried m).vc := rfl

/-! ### The condition held in the state -/

theorem State.vtLoss_of_cycle_some {s : State} {f : CycleFrame} (h : s.mu.cycle = some f) : s.vtLoss = f.vtLoss := by
  simp only [State.vtLoss, h]

theorem State.vtLoss_of_cycle_none {s : State} (h : s.mu.cycle = none) : s.vtLoss = false := by
  simp only [State.vtLoss, h]

/-! ### Cold reset -/

@[simp] theorem clampStep_mu (s : State) (k : StepNo) : (clampStep s k).mu = s.mu := by
  dsimp only [clampStep]
  split
  · rfl
  · simp

@[simp] theorem foldl_clampStep_mu (l : List StepNo) (s : State) : (l.foldl clampStep s).mu = s.mu := by
  induction l generalizing s with
  | nil => rfl
  | cons k l ih => rw [List.foldl_cons, ih, clampStep_mu]

/-- With or without a valid store slot, no Cycle Frame is held after a cold reset (R11). -/
theorem coldReset_mu_cycle (rate : BitVec 2) (s : State) : (coldReset rate s).mu.cycle = none := by
  unfold coldReset
  split
  · rfl
  · rw [foldl_clampStep_mu]
    rfl

theorem exec_coldReset (rate : BitVec 2) (s : State) : exec (.coldReset rate) s = .next (coldReset rate s) := rfl

/-! ### The statement -/

/-- Settles O8: no phase is both failed and healthy, so the two tests of the frame name two phases; a cold reset
holds no frame. -/
theorem vtLossNeedsAFailedAndAnotherHealthyPhase : Obligations.VtLossNeedsAFailedAndAnotherHealthyPhase := by
  unfold Obligations.VtLossNeedsAFailedAndAnotherHealthyPhase
  refine ⟨?frame, fun _ _ => State.vtLoss_of_cycle_some, fun _ => State.vtLoss_of_cycle_none, ?reset⟩
  case frame =>
    intro now carried m p
    have distinct := vtLossOf_iff_distinct p
    simp only [Phase.failed_iff, Phase.healthy_iff] at distinct
    rw [formCycle_vtLoss]
    exact distinct
  case reset =>
    intro rate s
    exact ⟨coldReset rate s, exec_coldReset rate s, State.vtLoss_of_cycle_none (coldReset_mu_cycle rate s)⟩

end Sys2Proof.Machine
end

