-- ==== Sys2Proof/Proofs/Raising.lean ====
section
/-! PROOFS. A request that meets an occupied channel, the close inhibitors as conditions, the ranking of the raise candidates, and the statement O28 (R88, R89, R90). -/

namespace Sys2Proof.Machine

/-! ### A channel that is occupied and a step that no record names -/

theorem channelMove_of_occupied {s : State} {a : ActiveOp} (active : s.sc.active = some a) (missing : a.missing ≠ 0) :
    channelMove s = none := by
  simp only [channelMove, active, if_neg missing]

theorem serve_of_occupied {s : State} {a : ActiveOp} (active : s.sc.active = some a) (missing : a.missing ≠ 0) :
    serve s = s := by
  simp only [serve, moveChannel, channelMove_of_occupied active missing]

theorem cancelRetries_of_no_retry {s : State} {k : StepNo} (noRetry : s.sc.retries[k] = none) :
    cancelRetries (bit k) s = s := by
  simp only [cancelRetries, stepsOf_bit, List.foldl_cons, List.foldl_nil, cancelRetry, noRetry]

theorem activeOn_of_active {s : State} {a : ActiveOp} (active : s.sc.active = some a) (k : StepNo) :
    s.activeOn k = mem a.op.steps k := by
  simp only [State.activeOn, active]

theorem waitingOn_of_nil {s : State} (empty : s.sc.waiting = []) (k : StepNo) : waitingOn k s = none := by
  simp only [waitingOn, empty, List.find?_nil]

/-- With the waiting list empty there is room, and the new record is the only one (R42, R48). -/
theorem admitRec_of_nil (q : OpReq) {s : State} (empty : s.sc.waiting = []) :
    admitRec q s = (.queued s.sc.nextId, bumpId (setWaiting [q.toRec s] s)) := by
  simp [admitRec, enqueue, placeRec, empty]

/-- A CLOSE for a step that no record and no retry names is queued as the only waiting record (R43, R44). -/
theorem request_close_of_nil (cls : OpClass) (cause : Cause) (r : Requester) {s : State} {k : StepNo}
    (idle : s.activeOn k = false) (empty : s.sc.waiting = []) (noRetry : s.sc.retries[k] = none) :
    request (oneStep .close k cls cause r) k s =
      (.queued s.sc.nextId, bumpId (setWaiting [(oneStep .close k cls cause r).toRec s] s)) := by
  have resolve : request (oneStep .close k cls cause r) k s =
      resolveClose (oneStep .close k cls cause r) k (cancelRetries (bit k) s) := rfl
  rw [resolve, cancelRetries_of_no_retry noRetry]
  simp [resolveClose, idle, waitingOn_of_nil empty, admitRec_of_nil _ empty]

/-! ### Inhibitors and candidates (R38, R89, R122) -/

@[simp] theorem TripState.isNormal_iff (t : TripState) : t.isNormal = true ↔ t = .normal := by
  cases t <;> simp [TripState.isNormal]

/-- Each inhibitor has a bit of its own: the set is empty exactly when none of the five conditions holds. -/
theorem inhibitors_eq_zero_iff (s : State) : s.inhibitors = 0 ↔
    s.blocked = false ∧ s.yp.trip.isNormal = true ∧ s.yp.ov1 = .quiet ∧ s.hs.block = false ∧ s.vtLoss = false := by
  have bits : ∀ block normal ov1 harmonic vt : Bool,
      BitVec.ofNat 5 (flagBit 0 block + flagBit 1 (!normal) + flagBit 2 ov1 + flagBit 3 harmonic + flagBit 4 vt) = 0 ↔
        block = false ∧ normal = true ∧ ov1 = false ∧ harmonic = false ∧ vt = false := by decide
  rw [State.inhibitors, bits]
  simp

/-- One test of a chain that answers its first failing one. -/
theorem ite_some_eq_none_iff {α : Type} (c : Prop) [Decidable c] (reason : α) (rest : Option α) :
    (if c then some reason else rest) = none ↔ ¬ c ∧ rest = none := by
  by_cases holds : c <;> simp [holds]

/-- For the CONTROL class all five inhibitors bar a close, so eligibility is their absence with the three
conditions on the step. -/
theorem eligibleToClose_control_iff (k : StepNo) (s : State) : eligibleToClose .control k s = true ↔
    s.inhibitors = 0 ∧ (s.stp k).state = some .ready ∧ (s.stp k).closeList.length < (s.cfg k).closeLimit
      ∧ (s.stp k).alarmFlag = false := by
  have resting : s.resting k = true ↔ ¬ (s.stp k).closeList.length < (s.cfg k).closeLimit := by
    simp [State.resting]
  rw [inhibitors_eq_zero_iff, eligibleToClose, decide_eq_true_eq, closeBar]
  simp only [ite_some_eq_none_iff, resting, ne_eq, true_and, not_not, Bool.not_eq_true, Bool.not_eq_true',
    Bool.not_eq_false, and_true]
  tauto

theorem EntryState.reachable_iff (e : EntryState) : e.reachable = true ↔ e ≠ .vetoed ∧ e ≠ .pinned := by
  cases e <;> simp [EntryState.reachable]

theorem raiseCandidate_iff {s : State} (clear : s.inhibitors = 0) (k : StepNo) : raiseCandidate s k = true ↔
    (s.stp k).state = some .ready ∧ (s.stp k).closeList.length < (s.cfg k).closeLimit ∧ (s.stp k).alarmFlag = false
      ∧ (s.entry (s.energized ||| bit k)).state ≠ .vetoed ∧ (s.entry (s.energized ||| bit k)).state ≠ .pinned
      ∧ s.vc.vc + (s.cfg k).dvEstimate ≤ s.vc.ul - s.settings.control.predictMargin := by
  simp only [raiseCandidate, Bool.and_eq_true, decide_eq_true_eq, eligibleToClose_control_iff,
    EntryState.reachable_iff, clear, true_and, and_assoc]

/-! ### The ranking (R90) -/

/-- Candidate k ranks before candidate j: by the keys, and among equal keys by the lower step number. -/
def RanksBefore (s : State) (k j : StepNo) : Prop :=
  keysBefore (raiseKeys s k) (raiseKeys s j) = true ∨ (raiseKeys s k = raiseKeys s j ∧ k < j)

theorem keysBefore_iff (a b : Nat × Nat × Nat) : keysBefore a b = true ↔
    a.1 < b.1 ∨ (a.1 = b.1 ∧ (a.2.1 < b.2.1 ∨ (a.2.1 = b.2.1 ∧ a.2.2 < b.2.2))) := by
  simp [keysBefore]

theorem ranksBefore_iff (s : State) (k j : StepNo) : RanksBefore s k j ↔
    (raiseKeys s k).1 < (raiseKeys s j).1 ∨ ((raiseKeys s k).1 = (raiseKeys s j).1
      ∧ ((raiseKeys s k).2.1 < (raiseKeys s j).2.1 ∨ ((raiseKeys s k).2.1 = (raiseKeys s j).2.1
        ∧ ((raiseKeys s k).2.2 < (raiseKeys s j).2.2 ∨ ((raiseKeys s k).2.2 = (raiseKeys s j).2.2 ∧ k < j))))) := by
  rw [RanksBefore, keysBefore_iff, Prod.ext_iff, Prod.ext_iff]
  tauto

/-- What the walk of `bestRaise` holds after one more candidate. -/
def betterRaise (s : State) (best : Option StepNo) (k : StepNo) : Option StepNo :=
  match best with
  | none => some k
  | some b => if keysBefore (raiseKeys s k) (raiseKeys s b) then some k else some b

theorem bestRaise_eq_foldl (s : State) :
    bestRaise s = (allSteps.filter (raiseCandidate s)).foldl (betterRaise s) none := rfl

/-- A step that ranks first is kept against every later one. -/
theorem betterRaise_keep {s : State} {k j : StepNo} (first : RanksBefore s k j) :
    betterRaise s (some k) j = some k := by
  have notBefore : ¬ keysBefore (raiseKeys s j) (raiseKeys s k) = true := by
    rw [ranksBefore_iff] at first
    rw [keysBefore_iff]
    omega
  simp [betterRaise, notBefore]

/-- A step that ranks first displaces an earlier one: the step number does not speak for it, so the keys do. -/
theorem betterRaise_displace {s : State} {k b : StepNo} (earlier : b < k) (first : RanksBefore s k b) :
    betterRaise s (some b) k = some k := by
  have before : keysBefore (raiseKeys s k) (raiseKeys s b) = true := by
    rcases first with before | ⟨-, later⟩
    · exact before
    · exact absurd later earlier.asymm
  simp [betterRaise, before]

theorem foldl_betterRaise_keep {s : State} {k : StepNo} {l : List StepNo} (first : ∀ j ∈ l, RanksBefore s k j) :
    l.foldl (betterRaise s) (some k) = some k := by
  induction l with
  | nil => rfl
  | cons j l ih =>
    rw [List.foldl_cons, betterRaise_keep (first j List.mem_cons_self)]
    exact ih fun i hi => first i (List.mem_cons_of_mem j hi)

/-- The walk ends with what it began with or with a step of the list. -/
theorem foldl_betterRaise_mem (s : State) (l : List StepNo) (best : Option StepNo) :
    l.foldl (betterRaise s) best = best ∨ ∃ b ∈ l, l.foldl (betterRaise s) best = some b := by
  induction l generalizing best with
  | nil => exact .inl rfl
  | cons j l ih =>
    have step : betterRaise s best j = best ∨ betterRaise s best j = some j := by
      unfold betterRaise
      split
      · exact .inr rfl
      · exact (ite_eq_or_eq _ _ _).symm
    rw [List.foldl_cons]
    rcases ih (betterRaise s best j) with same | ⟨b, hb, eq⟩
    · rw [same]
      exact step.imp_right fun eq => ⟨j, List.mem_cons_self, eq⟩
    · exact .inr ⟨b, List.mem_cons_of_mem j hb, eq⟩

theorem bestRaise_eq_none {s : State} (no : ∀ k, ¬ raiseCandidate s k = true) : bestRaise s = none := by
  have empty : allSteps.filter (raiseCandidate s) = [] := List.filter_eq_nil_iff.mpr fun k _ => no k
  rw [bestRaise_eq_foldl, empty, List.foldl_nil]

/-- The walk goes up the step numbers: the first-ranked candidate displaces whatever stands before it and is kept
to the end. -/
theorem bestRaise_eq_some {s : State} {k : StepNo} (cand : raiseCandidate s k = true)
    (first : ∀ j, raiseCandidate s j = true → j ≠ k → RanksBefore s k j) : bestRaise s = some k := by
  have sorted : (allSteps.filter (raiseCandidate s)).Pairwise (· < ·) :=
    List.Pairwise.filter _ (by decide)
  have isCand : ∀ j ∈ allSteps.filter (raiseCandidate s), raiseCandidate s j = true :=
    fun j hj => (List.mem_filter.mp hj).2
  obtain ⟨pre, post, split⟩ := List.append_of_mem (List.mem_filter.mpr ⟨mem_allSteps k, cand⟩)
  rw [bestRaise_eq_foldl]
  rw [split] at sorted isCand ⊢
  obtain ⟨-, up, below⟩ := List.pairwise_append.mp sorted
  have above : ∀ j ∈ post, k < j := (List.pairwise_cons.mp up).1
  have atStep : betterRaise s (pre.foldl (betterRaise s) none) k = some k := by
    rcases foldl_betterRaise_mem s pre none with nothing | ⟨b, hb, eq⟩
    · rw [nothing]
      rfl
    · have earlier : b < k := below b hb k List.mem_cons_self
      rw [eq]
      exact betterRaise_displace earlier (first b (isCand b (by simp [hb])) earlier.ne)
  rw [List.foldl_append, List.foldl_cons, atStep]
  exact foldl_betterRaise_keep fun j hj => first j (isCand j (by simp [hj])) (above j hj).ne'

/-! ### What RAISE_EXPIRY does (R88, R89, R90) -/

theorem jitterOf_le (s : State) : jitterOf s ≤ s.settings.control.jitterMax := by
  unfold jitterOf
  split
  · exact Nat.zero_le _
  · exact Nat.lt_succ_iff.mp (Nat.mod_lt _ (Nat.succ_pos _))

theorem exec_raiseExpiry (s : State) : exec .raiseExpiry s = .next (raiseExpiry s) := rfl

section Expiry
variable {s : State} {d : Clock} (timing : s.vc.state = .raiseTiming d) (elapsed : passed s.clock d = true)
include timing elapsed

theorem raiseExpiry_of_inhibited (present : s.inhibitors ≠ 0) : raiseExpiry s =
    startRaise (note .raiseInhibited .info none none (some (s.inhibitors.toNat : Int)) (some 0) s) := by
  simp only [raiseExpiry, timing, elapsed, if_true, if_pos present]

theorem raiseExpiry_of_none (clear : s.inhibitors = 0) (best : bestRaise s = none) :
    raiseExpiry s = startRaise (noteNoCandidate .raise s) := by
  simp [raiseExpiry, timing, elapsed, clear, best]

theorem raiseExpiry_of_some (clear : s.inhibitors = 0) {k : StepNo} (best : bestRaise s = some k) :
    raiseExpiry s = requestRaise k s := by
  simp [raiseExpiry, timing, elapsed, clear, best]

end Expiry

/-- With the channel occupied by other steps the requested close waits, and the controller awaits it. -/
theorem requestRaise_of_occupied {s : State} {k : StepNo} {a : ActiveOp} (active : s.sc.active = some a)
    (missing : a.missing ≠ 0) (other : mem a.op.steps k = false) (empty : s.sc.waiting = [])
    (noRetry : s.sc.retries[k] = none) :
    requestRaise k s = awaitOperation .raise k s.sc.nextId
      (bumpId (setWaiting [(oneStep .close k .control .raise .vc).toRec s] s)) := by
  have idle : s.activeOn k = false := (activeOn_of_active active k).trans other
  rw [requestRaise, request_close_of_nil _ _ _ idle empty noRetry]
  exact serve_of_occupied active missing

/-! ### The statement -/

/-- Settles O28: the two restarts are `startRaise` after one record; a request needs that the walk of `bestRaise`
finds the candidate that ranks before all others. -/
theorem raiseExpiryReadsTheInhibitorsThenTheCandidates :
    Obligations.RaiseExpiryReadsTheInhibitorsThenTheCandidates := by
  unfold Obligations.RaiseExpiryReadsTheInhibitorsThenTheCandidates
  intro s d timing elapsed candidate suspect recent total before
  refine ⟨?inhibited, ?noCandidate, ?requested⟩
  case inhibited =>
    intro present
    refine ⟨jitterOf s, s.draws + 1, jitterOf_le s, ?_⟩
    rw [exec_raiseExpiry, raiseExpiry_of_inhibited timing elapsed present]
    rfl
  case noCandidate =>
    intro clear no
    have best : bestRaise s = none := bestRaise_eq_none fun k hk => no k ((raiseCandidate_iff clear k).mp hk)
    refine ⟨jitterOf s, s.draws + 1, jitterOf_le s, ?_⟩
    rw [exec_raiseExpiry, raiseExpiry_of_none timing elapsed clear best]
    rfl
  case requested =>
    intro a k clear active missing empty cand other noRetry first
    have best : bestRaise s = some k := bestRaise_eq_some ((raiseCandidate_iff clear k).mpr cand) fun j hj hne =>
      (ranksBefore_iff s k j).mpr (first j ((raiseCandidate_iff clear j).mp hj) hne)
    rw [exec_raiseExpiry, raiseExpiry_of_some timing elapsed clear best,
      requestRaise_of_occupied active missing other empty noRetry]
    rfl

end Sys2Proof.Machine
end

/-! PROOFS. A frame handed to its owner, the abort of a zeroing, and the statement O38 (R149, R150). -/

namespace Sys2Proof.Machine

/-! ### A frame with room and its kind's length reaches its owner (R81, R167) -/

theorem handle_of_room (kind : Byte) (owner : List Byte → State → State) (tag : Byte) (p : List Byte) {s : State}
    (room : hasRoom s = true) : handle kind p.length owner tag p s = owner p (refreshSupervision s) := by
  rcases handle_cases kind p.length owner tag p s with ⟨full, -⟩ | ⟨-, -, taken⟩ | ⟨-, bad, -⟩
  · exact absurd full (ne_false_of_eq_true room)
  · exact taken
  · exact absurd rfl bad

/-! ### The abort of a zeroing (R149) -/

theorem abortZero_of_none (reason : ZeroReason) {s : State} (idle : s.zeroing = none) : abortZero reason s = s := by
  simp only [abortZero, idle]

theorem abortZero_of_some (reason : ZeroReason) {s : State} {z : Zeroing} (inFlight : s.zeroing = some z) :
    abortZero reason s =
      note .zeroAborted .info (some z.step) none (some reason.code) (some z.taken) { s with zeroing := none } := by
  simp only [abortZero, inFlight]

/-! ### The statement (R150) -/

/-- The told Voltage Controller comes first, then the abort, then the reply; no SAVE is asked about. -/
theorem exec_zeroCancel_of_room (tag : Byte) {s : State} (room : hasRoom s = true) : exec (.zeroCancel tag []) s =
    .next (answer 0x10 tag .ok .empty (abortZero .cancelled (refreshSupervision s))) :=
  congrArg Host.Outcome.next (handle_of_room 0x10 (zeroCancelOwner tag) tag [] room)

/-- Settles O38: `refreshSupervision` leaves the zeroing as it is, so the abort's two cases are those of `s`; the reply
joins behind what the record's append answers to a held WAIT. -/
theorem zeroCancelAbortsTheZeroing : Obligations.ZeroCancelAbortsTheZeroing := by
  unfold Obligations.ZeroCancelAbortsTheZeroing
  intro tag s room
  rw [exec_zeroCancel_of_room tag room]
  refine ⟨fun z inFlight => ?inFlight, fun idle => ?idle⟩
  case inFlight =>
    have told : (refreshSupervision s).zeroing = some z := inFlight
    rw [abortZero_of_some .cancelled told]
    exact ⟨_, rfl, rfl, rfl, rfl, List.Perm.refl _⟩
  case idle =>
    have told : (refreshSupervision s).zeroing = none := idle
    rw [abortZero_of_none .cancelled told]
    rfl

end Sys2Proof.Machine

/-! PROOFS. The clamped count, the class mask of a WAIT, what EVENTS hands out, the four answers of WAIT, and the statement O49 (R175, R176, R177). -/

namespace Sys2Proof.Machine

/-! ### The clamp and the class mask -/

theorem clampNat_eq_min_max {lo hi : Nat} (ordered : lo ≤ hi) (a : Nat) : clampNat lo hi a = min (max a lo) hi := by
  unfold clampNat
  split
  case isTrue below => omega
  case isFalse notBelow => split <;> omega

/-- A byte is a mask exactly from 1 to 7: a lower one names no class, a higher one has a bit for no class. -/
theorem maskOfByte_eq_none_iff {b : Nat} : maskOfByte b = none ↔ b = 0 ∨ 8 ≤ b := by
  simp only [maskOfByte, ite_eq_right_iff, reduceCtorEq, imp_false]
  omega

theorem maskOfByte_setWidth {mask : BitVec 3} (someClass : mask ≠ 0) :
    maskOfByte (mask.setWidth 8).toNat = some mask := by
  have same : (mask.setWidth 8).toNat = mask.toNat := BitVec.toNat_setWidth_of_le (by decide)
  have positive : mask.toNat ≠ 0 := fun h => someClass (BitVec.eq_of_toNat_eq h)
  have bounded : 1 ≤ mask.toNat ∧ mask.toNat ≤ 7 := by have := mask.isLt; omega
  rw [same, maskOfByte, if_pos bounded, BitVec.ofNat_toNat, BitVec.setWidth_eq]

/-! ### What EVENTS hands out (R175, R176) -/

/-- The gap flag in the reply is the one from before the request; ATTN is formed from what stays queued. -/
theorem eventsOwner_eq (tag n : Byte) (s : State) :
    let count := min (max n.toNat 1) 8
    eventsOwner tag [n] s = { s with li := { s.li with
      events := s.li.events.drop count
      gap := false
      attn := attnOf s.settings.yard.attnClass (s.li.events.drop count)
      replies := s.li.replies ++ [⟨0x92, tag, .ok, .events (s.li.events.take count)
        (min count s.li.events.length) s.li.gap (s.li.events.length - count)⟩] } } := by
  intro count
  have clamped : clampNat 1 8 (byteAt [n] 0) = count := clampNat_eq_min_max (by decide) n.toNat
  simp only [eventsOwner, clamped, List.length_take, List.length_drop]
  rfl

theorem exec_events_of_room (tag n : Byte) {s : State} (room : hasRoom s = true) :
    exec (.events tag [n]) s = .next (eventsOwner tag [n] (refreshSupervision s)) :=
  congrArg Host.Outcome.next (handle_of_room 0x12 (eventsOwner tag) tag [n] room)

/-! ### The four answers of WAIT (R177) -/

theorem waitOwner_of_noMask (tag : Byte) {p : List Byte} (s : State) (noMask : maskOfByte (byteAt p 0) = none) :
    waitOwner tag p s = answer 0x13 tag .range .empty s := by
  simp only [waitOwner, noMask]

section Masked

variable {p : List Byte} {mask : BitVec 3} {s : State} (tag : Byte) (masked : maskOfByte (byteAt p 0) = some mask)
include masked

theorem waitOwner_of_held (held : s.li.held ≠ none) : waitOwner tag p s = answer 0x13 tag .busy .empty s := by
  simp only [waitOwner, masked, if_pos held]

theorem waitOwner_of_find_eq_some {e : EventRec} (free : s.li.held = none)
    (queued : (s.li.events.find? fun r => inMask mask r.cls) = some e) :
    waitOwner tag p s = answer 0x13 tag .event (.waitEvent e.kind e.cls e.time s.li.events.length) s := by
  simp only [waitOwner, masked, if_neg (not_not_intro free), queued]

theorem waitOwner_of_unmatched (free : s.li.held = none) (unmatched : ∀ e ∈ s.li.events, inMask mask e.cls = false) :
    waitOwner tag p s = { s with li := { s.li with
      held := some ⟨tag, mask, addSec s.clock (min (max (wordAt p 1) 1) 600)⟩ } } := by
  have notFound : (s.li.events.find? fun r => inMask mask r.cls) = none :=
    List.find?_eq_none.mpr fun e he => ne_true_of_eq_false (unmatched e he)
  simp only [waitOwner, masked, if_neg (not_not_intro free), notFound, clampNat_eq_min_max (show 1 ≤ 600 by decide)]

end Masked

theorem exec_wait_of_room (tag b hi lo : Byte) {s : State} (room : hasRoom s = true) :
    exec (.wait tag [b, hi, lo]) s = .next (waitOwner tag [b, hi, lo] (refreshSupervision s)) :=
  congrArg Host.Outcome.next (handle_of_room 0x13 (waitOwner tag) tag [b, hi, lo] room)

/-! ### The statement -/

/-- Settles O49: `refreshSupervision` leaves the Link Interface, the clock and the settings as they are, so the owners
of EVENTS and WAIT meet the queue and the held WAIT of `s`. -/
theorem eventsAndWaitServeTheQueue : Obligations.EventsAndWaitServeTheQueue := by
  unfold Obligations.EventsAndWaitServeTheQueue
  refine ⟨fun tag n s room => ?events, fun tag hi lo mask s room => ?wait⟩
  case events =>
    rw [exec_events_of_room tag n room, eventsOwner_eq]
    rfl
  case wait =>
    have masked (someClass : mask ≠ 0) : maskOfByte (byteAt [mask.setWidth 8, hi, lo] 0) = some mask :=
      maskOfByte_setWidth someClass
    simp only [exec_wait_of_room tag _ hi lo room]
    refine ⟨fun b high => ?noClass, fun empty => ?empty, fun someClass held => ?busy,
      fun someClass free unmatched => ?hold, fun e someClass free queued => ?answered⟩
    case noClass =>
      rw [waitOwner_of_noMask (p := [b, hi, lo]) tag _ (maskOfByte_eq_none_iff.mpr (.inr high))]
      rfl
    case empty =>
      subst empty
      rw [waitOwner_of_noMask (p := [(0 : BitVec 3).setWidth 8, hi, lo]) tag _ (maskOfByte_eq_none_iff.mpr (.inl rfl))]
      rfl
    case busy =>
      rw [waitOwner_of_held (s := refreshSupervision s) tag (masked someClass) held]
      rfl
    case hold =>
      rw [waitOwner_of_unmatched (s := refreshSupervision s) tag (masked someClass) free unmatched]
      rfl
    case answered =>
      rw [waitOwner_of_find_eq_some (s := refreshSupervision s) tag (masked someClass) free queued]
      rfl

end Sys2Proof.Machine
